-- ==== Sys2Proof/Word.lean ====
section
/-! DEFINITION. The words of the machine (spec 00_scope R9, R10): unsigned bit vectors, bit 0 least significant. -/

namespace Sys2Proof

/-- One byte of memory (20_memory R60). -/
abbrev Byte := BitVec 8

/-- A 32-bit field: a segment limit, `TCS.CSSA`, the low or high half of a 64-bit register. -/
abbrev Dword := BitVec 32

/-- A 64-bit register, address or field. -/
abbrev Word := BitVec 64

end Sys2Proof
end

