-- ==== Sys2Proof/Config.lean ====
section
/-! DEFINITION. The configuration: what 00_scope R6 and R8 leave to an implementation. The parameters with a plain value
are the fields of `Config`, which `State` holds and no step changes, so that a statement about every state is a statement
about every configuration (log 3). The functions whose values nothing may know are opaque constants. -/

namespace Sys2Proof

/-- The parameter `LA_WIDTH` (00_scope R6, R14). -/
inductive LaWidth where
  | bits48
  | bits57
deriving DecidableEq, Repr

/-- The number of linear-address bits. -/
def LaWidth.bits : LaWidth → Nat
  | .bits48 => 48
  | .bits57 => 57

/-- The parameter `DS_4GB_READING`: how "IF (DS.limit < 4GB)" is read (92 D12). -/
inductive Ds4gbReading where
  /-- The test is `DS.limit ≠ FFFFFFFFH`. -/
  | intent
  /-- A 32-bit limit is always below 4 GBytes. -/
  | literal
deriving DecidableEq, Repr

/-- The parameter `MEMORY_MODEL`, which no rule reads (20_memory R75, 92 D23). -/
inductive MemoryModel where
  | unspecified
  | totalStoreOrder
deriving DecidableEq, Repr

/-- The kinds of access asked of the paging oracle: the three of 20_memory R63, and the instruction fetch, which is the
model's own (log 16). -/
inductive Access where
  | read
  | write
  | readWrite
  | fetch
deriving DecidableEq, Repr

/-- The causes of a page fault that are EENTER's own and not the paging oracle's (60_exceptions R253). -/
inductive PfCause where
  /-- The address resolves outside the EPC (R146, R170). -/
  | notEpc
  /-- `EPCM.VALID = 0` (R153, R170). -/
  | notValid
  /-- `EPCM.BLOCKED = 1` (R154, R170). -/
  | blocked
  /-- `EPCM.PENDING = 1` or `EPCM.MODIFIED = 1` (R156, R170). -/
  | pendingOrModified
  /-- The page is not the one required: `ENCLAVEADDRESS`, `PT`, `ENCLAVESECS`, `R` or `W` (R155, R170). -/
  | wrongPage
  /-- A TCS address that is not canonical (R148). -/
  | notCanonical
deriving DecidableEq, Repr

/-- A run of 4-KByte physical pages that belong to the EPC (`IsEPC`, 20_memory R64). -/
structure EpcSection where
  /-- Number of the first page: its physical address divided by 4096. -/
  firstPage : Nat
  /-- How many pages. -/
  pages : Nat
deriving DecidableEq, Repr

/-- Where a field of a structure lies in its page. -/
structure FieldPlace where
  offset : Nat
  width : Nat
deriving DecidableEq, Repr

/-- The parameter `TCS_LAYOUT` (10_state R43); no rule depends on it. -/
structure TcsLayout where
  state : FieldPlace := ⟨0, 8⟩
  flags : FieldPlace := ⟨8, 8⟩
  ossa : FieldPlace := ⟨16, 8⟩
  cssa : FieldPlace := ⟨24, 4⟩
  nssa : FieldPlace := ⟨28, 4⟩
  oentry : FieldPlace := ⟨32, 8⟩
  aep : FieldPlace := ⟨40, 8⟩
  ofsbase : FieldPlace := ⟨48, 8⟩
  ogsbase : FieldPlace := ⟨56, 8⟩
  fslimit : FieldPlace := ⟨64, 4⟩
  gslimit : FieldPlace := ⟨68, 4⟩
  ocetssa : FieldPlace := ⟨72, 8⟩
  prevssp : FieldPlace := ⟨80, 8⟩
deriving DecidableEq, Repr

/-- The parameter `SECS_LAYOUT` (10_state R45); no rule depends on it. The flag bits are bit numbers inside the
16-byte ATTRIBUTES field. -/
structure SecsLayout where
  size : FieldPlace := ⟨0, 8⟩
  baseaddr : FieldPlace := ⟨8, 8⟩
  ssaframesize : FieldPlace := ⟨16, 4⟩
  cetLegBitmapOffset : FieldPlace := ⟨24, 8⟩
  cetAttributes : FieldPlace := ⟨32, 1⟩
  attributes : FieldPlace := ⟨48, 16⟩
  initBit : Nat := 0
  debugBit : Nat := 1
  mode64Bit : Nat := 2
  cetBit : Nat := 6
  aexnotifyBit : Nat := 10
  xfrmBits : Nat := 64
deriving DecidableEq, Repr

/-- The parameter `ENCLU_available`: which predicate of the state decides it (00_scope R6, R8; log 7). -/
inductive EncluAvailability where
  /-- The spec's general knowledge: the five conditions of 30_encoding R96 (92 D3). -/
  | generalKnowledge
  /-- Another predicate, of which nothing is known: `Config.openEncluAvailable`. -/
  | other
deriving DecidableEq, Repr

/-- The parameters of 00_scope R6. The defaults are the values 95_test_vectors uses, each marked there as general
knowledge or a decision of the spec (log 3, log 36), but for those that the spec gives nowhere and log 3 names as the
model's: SGX1 and XSAVE_AVAILABLE true, no EPC page (DESIGN CHOICE). -/
structure Config where
  /-- The feature flag SGX1 (10_state R30). -/
  sgx1 : Bool := true
  /-- `SGX_CET`: the CPUID bit that gates the CET block, whose index was lost (92 D33). -/
  sgxCet : Bool := false
  /-- `CPU_CET_IBT`. -/
  cpuCetIbt : Bool := false
  /-- `CPU_CET_SS`. -/
  cpuCetSs : Bool := false
  /-- `XSAVE_AVAILABLE`, "a named parameter that no rule reads" (90_conflicts C11). The spec gives it no value; the default
  is the model's (DESIGN CHOICE, log 3). -/
  xsaveAvailable : Bool := true
  /-- `LA_WIDTH`. -/
  laWidth : LaWidth := .bits48
  /-- `XSAVE_FRAME_SIZE` where it is known: pairs of XFRM and size (log 19). -/
  xsaveFrameSizes : List (Word × Word) := [(3, 576)]
  /-- `GPRSGX_SIZE`. -/
  gprsgxSize : Nat := 184
  /-- `GPR_OFF_URSP`. -/
  gprOffUrsp : Nat := 144
  /-- `GPR_OFF_URBP`. -/
  gprOffUrbp : Nat := 152
  /-- `TCS_LAYOUT`. -/
  tcsLayout : TcsLayout := {}
  /-- `SECS_LAYOUT`. -/
  secsLayout : SecsLayout := {}
  /-- `IsEPC`, as runs of pages. -/
  epcSections : List EpcSection := []
  /-- `ENCLU_BYTES` in address order (30_encoding R93, 92 D2; log 1). -/
  encluBytes : List Byte := [0x0F, 0x01, 0xD7]
  /-- `ENCLU_LEN`, what RCX is advanced by (30_encoding R94, 92 D2; log 1). -/
  encluLen : Nat := 3
  /-- `PGS_BIT_A`. -/
  pgsBitA : Fin 64 := 60
  /-- `PGS_BIT_B`. -/
  pgsBitB : Fin 64 := 63
  /-- `SSA_LOOP_INCLUSIVE` (92 D9). -/
  ssaLoopInclusive : Bool := true
  /-- `DS_4GB_READING` (92 D12). -/
  ds4gbReading : Ds4gbReading := .intent
  /-- `CHECK_DS_LIMIT_TCS` (92 D7). -/
  checkDsLimitTcs : Bool := true
  /-- `ENCLU_available` (92 D3). -/
  encluAvailability : EncluAvailability := .generalKnowledge
  /-- `MEMORY_MODEL` (92 D23). -/
  memoryModel : MemoryModel := .unspecified
deriving DecidableEq, Repr

/-- The environment's draws for one launch (92, "Environment draws"; log 12). -/
structure Draws where
  /-- `TcsLockConflict`: another logical processor holds the TCS incompatibly at this moment (41 R151). -/
  tcsLockConflict : Bool
  /-- `SecsInUse`: another logical processor holds the SECS exclusively (41 R152). -/
  secsInUse : Bool
deriving DecidableEq, Repr, Inhabited

/-- `PFEC`: the error code of a page fault that EENTER itself raises; no rule depends on it (60_exceptions R254). -/
opaque Config.pfec : PfCause → Access → Dword

/-- `ENCLU_available` where it is not the predicate of 30_encoding R96: of the configuration, of whether SGX is enabled,
of CR0, CR4, IA32_EFER and RFLAGS, and of the privilege level (log 7). -/
opaque Config.openEncluAvailable (c : Config) (sgxEnabled : Bool) (cr0 cr4 efer rflags : Word) (cpl : BitVec 2) : Bool

/-- `XSAVE_FRAME_SIZE` at an XFRM that the configuration's table does not list (41 R168, 92 D37). -/
opaque Config.openXsaveFrameSize : Word → Word

/-- The `n`-th free 32-bit value: an upper half on which the spec is silent (92 D19, log 8, log 9). -/
opaque Config.freeDword : Nat → Dword

/-- The `n`-th free 64-bit value: a running counter after an entry (60_exceptions R275, log 10). -/
opaque Config.freeWord : Nat → Word

/-- Whether a non-canonical TCS address takes #GP(0) rather than #PF: a draw under no law (41 R148, log 11). -/
opaque Config.nonCanonicalTcsIsGp : Nat → Bool

/-- The environment's draws for the launch after an entry (log 12). -/
opaque Config.nextDraws : Nat → Draws

end Sys2Proof
end

