-- ==== Sys2Proof/Syntax.lean ====
section
/-! DEFINITION. The instructions: one constructor for each row of `spec/opcode_table.json`. -/

namespace Sys2Proof

/-- The instructions in scope (30_encoding R90, R91). -/
inductive Instr where
  /-- `ENCLU[EENTER]`: the fixed byte string of ENCLU. It has no operand in its bytes; the leaf number in EAX, the TCS
  address in RBX and the AEP in RCX are implicit registers, read when it executes (R92, R95). -/
  | enclu
deriving DecidableEq, Repr

end Sys2Proof
end

