-- ==== Sys2Proof/WellFormed.lean ====
section
/-! DEFINITION. Well-formedness of an instruction and of a configuration. -/

namespace Sys2Proof

/-- ENCLU has no operand to be out of range (30_encoding R90, R95): every term is well-formed. -/
def Instr.wellFormed : Instr → Bool
  | .enclu => true

/-- What 00_scope R6 and 42 R212 ask of the GPR-area parameters: both 8-byte slots lie inside the area, and they do not
overlap. -/
def Config.gprAreaOk (c : Config) : Bool :=
  decide (c.gprOffUrsp + 8 ≤ c.gprsgxSize) && decide (c.gprOffUrbp + 8 ≤ c.gprsgxSize) &&
    (decide (c.gprOffUrsp + 8 ≤ c.gprOffUrbp) || decide (c.gprOffUrbp + 8 ≤ c.gprOffUrsp))

/-- The GPR area fits in one page (41 R172; 93 U29). -/
def Config.gprAreaInPage (c : Config) : Bool :=
  decide (c.gprsgxSize ≤ 4096)

/-- `ENCLU_LEN` is the length of `ENCLU_BYTES`, and no x86 instruction is empty or longer than 15 bytes (30_encoding R94;
log 1, log 23). -/
def Config.encluOk (c : Config) : Bool :=
  decide (c.encluLen = c.encluBytes.length) && decide (0 < c.encluLen) && decide (c.encluLen ≤ 15)

/-- EPC pages have 64-bit physical addresses (20_memory R60). -/
def Config.epcInAddressSpace (c : Config) : Bool :=
  c.epcSections.all fun sec => decide (sec.firstPage + sec.pages ≤ 2 ^ 52)

/-- A configuration that an implementation could have. -/
def Config.wellFormed (c : Config) : Bool :=
  c.gprAreaOk && c.gprAreaInPage && c.encluOk && c.epcInAddressSpace

end Sys2Proof
end

