-- ==== Sys2Proof/Decode.lean ====
section
/-! DEFINITION. The decoder, total on any bytes and mode, rejecting by name (30_encoding R93 to R101), and the encoder. -/

namespace Sys2Proof

/-- Why bytes are no instruction of the model. -/
inductive DecodeError where
  /-- ENCLU behind one or more prefixes: `PrefixedENCLU` (30_encoding R97). -/
  | prefixedEnclu
  /-- Bytes of something else: "not in scope" (30_encoding R101). -/
  | notInScope
  /-- The bytes end before they can be told apart from ENCLU. -/
  | truncated
deriving DecidableEq, Repr

/-- LOCK, REPNE, REP, the segment overrides, operand size and address size (30_encoding R97, 93 U4; log 25). -/
def legacyPrefixes : List Byte :=
  [0xF0, 0xF2, 0xF3, 0x2E, 0x36, 0x3E, 0x26, 0x64, 0x65, 0x66, 0x67]

/-- A prefix byte; 40H to 4FH are REX prefixes in 64-bit mode only (log 25). -/
def isPrefixByte (mode64 : Bool) (b : Byte) : Bool :=
  legacyPrefixes.contains b || (mode64 && b.extractLsb' 4 4 == 4#4)

/-- `ENCLU_BYTES` do not themselves start with a prefix, in either mode: "NP" (30_encoding R97). -/
def Config.encluUnprefixed (c : Config) : Bool :=
  match c.encluBytes with
  | [] => false
  | b :: _ => !(isPrefixByte true b)

/-- The bytes after any prefixes. -/
def dropPrefixes (mode64 : Bool) : List Byte → List Byte
  | [] => []
  | b :: bs => if isPrefixByte mode64 b then dropPrefixes mode64 bs else b :: bs

/-- The bytes after `pre`, where the bytes start with it. -/
def stripBytes : List Byte → List Byte → Option (List Byte)
  | [], bytes => some bytes
  | _ :: _, [] => none
  | p :: pre, b :: bytes => if p = b then stripBytes pre bytes else none

/-- The bytes after ENCLU, where the bytes start with it (30_encoding R93). -/
def afterEnclu (c : Config) (bytes : List Byte) : Option (List Byte) := stripBytes c.encluBytes bytes

/-- The decoder: the instruction at the head of the bytes and the bytes after it (30_encoding R101). The mode does not
change the bytes of ENCLU (R99); it only tells which bytes are prefixes. -/
def decode (c : Config) (mode64 : Bool) (bytes : List Byte) : Except DecodeError (Instr × List Byte) :=
  match afterEnclu c bytes with
  | some rest => .ok (.enclu, rest)
  | none =>
    let body := dropPrefixes mode64 bytes
    if (afterEnclu c body).isSome then .error .prefixedEnclu
    else if body.isPrefixOf c.encluBytes then .error .truncated
    else .error .notInScope

/-- The bytes of an instruction (30_encoding R93). -/
def encode (c : Config) : Instr → List Byte
  | .enclu => c.encluBytes

/-- The low `n` bytes of `w`, most significant first: the numbering of `spec/opcode_table.json`, whose match value has
the first byte of the instruction in the most significant position (30_encoding R93; log 2). -/
def bytesOfTableWord : Nat → Nat → List Byte
  | 0, _ => []
  | n + 1, w => BitVec.ofNat 8 (w / 256 ^ n) :: bytesOfTableWord n w

/-- The instruction the decoder reads from an instruction whose bits, numbered as the opcode table numbers them, are
`w`: the first `nbits / 8` bytes as the table gives them, then zeros up to the longest instruction. The table is written
for the default `ENCLU_BYTES`, and so is this decoding of it (log 1, log 2). -/
def decodeTableWord (nbits w : Nat) : Option Instr :=
  match decode {} true (bytesOfTableWord (nbits / 8) w ++ List.replicate (Config.encluLen {} - nbits / 8) 0) with
  | .ok (i, _) => some i
  | .error _ => none

end Sys2Proof
end

