-- ==== Sys2Proof/Machine/State.lean ====
section
/-! DEFINITION. The state of the machine: every piece of state spec/10_state.md and spec/20_memory.md name, as plain
data, the reasons a step can stop, and the state after reset. INVENTORY.md lists each piece with its rule. -/

namespace Sys2Proof.Machine

/-- Data by number, in one canonical form: numbers strictly rising, no entry equal to what an unlisted number reads as.
The operations are in `Machine/Ops.lean`. -/
abbrev Keyed (α : Type) := List (Nat × α)

/-- The sixteen general registers (10_state R20). -/
inductive Gpr where
  | rax | rcx | rdx | rbx | rsp | rbp | rsi | rdi
  | r8 | r9 | r10 | r11 | r12 | r13 | r14 | r15
deriving DecidableEq, Repr

/-- The general register file (10_state R20). -/
structure Gprs where
  rax : Word
  rcx : Word
  rdx : Word
  rbx : Word
  rsp : Word
  rbp : Word
  rsi : Word
  rdi : Word
  r8 : Word
  r9 : Word
  r10 : Word
  r11 : Word
  r12 : Word
  r13 : Word
  r14 : Word
  r15 : Word
deriving DecidableEq, Repr

/-- The access rights of a segment register, saved and restored as a unit (10_state R25). `W` is bit 1 of `type`. -/
structure AccessRights where
  type : BitVec 4
  s : Bool
  dpl : BitVec 2
  p : Bool
  avl : Bool
  l : Bool
  b : Bool
  g : Bool
  unusable : Bool
deriving DecidableEq, Repr

/-- A segment register with its hidden portion (10_state R25). `limit` is the highest legal offset in bytes, whatever
`g` holds (92 D13). -/
structure SegReg where
  selector : BitVec 16
  base : Word
  limit : Dword
  ar : AccessRights
deriving DecidableEq, Repr

/-- The six segment registers (10_state R25). -/
structure Segs where
  cs : SegReg
  ss : SegReg
  ds : SegReg
  es : SegReg
  fs : SegReg
  gs : SegReg
deriving DecidableEq, Repr

/-- Control registers and what `ENCLU_available` reads beside them (10_state R26 to R29, 30_encoding R96). -/
structure SysRegs where
  cr0 : Word
  cr2 : Word
  cr3 : Word
  cr4 : Word
  efer : Word
  xcr0 : Word
  /-- IA32_U_CET. -/
  uCet : Word
  ssp : Word
  /-- The current privilege level. -/
  cpl : BitVec 2
  /-- SGX has been enabled by system software. -/
  sgxEnabled : Bool
deriving DecidableEq, Repr

/-- Whether a counter of a hardware thread counts the events of any thread of its core or of its own thread (42 R221). -/
inductive CountMode where
  | anyThread
  | myThread
deriving DecidableEq, Repr

/-- A hardware thread of the same core: the mode of each of its counters and its IA32_PERF_GLOBAL_STATUS (42 R221). -/
structure Sibling where
  counters : List CountMode
  globalStatus : Word
deriving DecidableEq, Repr

/-- Performance-monitoring state (10_state R31). -/
structure PerfMon where
  fixedCtr1 : Word
  fixedCtr2 : Word
  /-- IA32_PERF_GLOBAL_STATUS of this hardware thread. -/
  globalStatus : Word
  /-- `perfmon_suppressed` (42 R219). -/
  suppressed : Bool
  /-- `pebs_suppressed` (42 R220). -/
  pebsSuppressed : Bool
  /-- "some performance monitoring was in fact active": the environment's (42 R222, log 13). -/
  active : Bool
  siblings : List Sibling
deriving DecidableEq, Repr

/-- What a breakpoint watches. -/
inductive BreakpointKind where
  | code
  | data
deriving DecidableEq, Repr

/-- A breakpoint: the linear bytes `addr` to `addr + length - 1`, and whether it is suppressed (10_state R32). -/
structure Breakpoint where
  kind : BreakpointKind
  addr : Word
  length : Nat
  suppressed : Bool
deriving DecidableEq, Repr

/-- Debug state (10_state R32). -/
structure DebugState where
  breakpoints : List Breakpoint
  /-- `pending_DB`. -/
  pendingDb : Bool
deriving DecidableEq, Repr

/-- Virtualisation state (10_state R33). -/
structure VirtState where
  /-- The "monitor trap flag" VM-execution control: the environment's (log 13). -/
  mtfControl : Bool
  /-- `pending_MTF`. -/
  pendingMtf : Bool
  /-- `mtf_suppressed`. -/
  mtfSuppressed : Bool
deriving DecidableEq, Repr

/-- `CR_ELRANGE`: the pair `(SECS.BASEADDR, SECS.SIZE)` (10_state R35). -/
structure ElRange where
  base : Word
  size : Word
deriving DecidableEq, Repr

/-- The hidden `CR_` registers of SGX (10_state R34 to R39). -/
structure SgxRegs where
  enclaveMode : Bool
  activeSecs : Word
  elrange : ElRange
  tcsPa : Word
  tcsLa : Word
  gprPa : Word
  /-- `CR_XSAVE_PAGE_n` by index `n`; an index that is not listed holds 0 (log 5, log 33). -/
  xsavePages : Keyed Word
  cetSaveAreaPa : Word
  saveFs : SegReg
  saveGs : SegReg
  saveXcr0 : Word
  dbgOptIn : Bool
  saveTf : Bool
  saveUCet : Word
  saveSsp : Word
deriving DecidableEq, Repr

/-- What one kind of access to a linear page translates to: a 4-KByte frame, by number, or a page fault with its error
code (20_memory R63). -/
inductive Translation where
  | mapped (frame : BitVec 52)
  | fault (code : Dword)
deriving DecidableEq, Repr

/-- The paging oracle at one linear page (20_memory R63; log 16). -/
structure PageEntry where
  onRead : Translation
  onWrite : Translation
  onReadWrite : Translation
  onFetch : Translation
deriving DecidableEq, Repr

/-- What a linear page with no entry translates to (log 16). -/
inductive Unlisted where
  /-- Paging is off: the physical address is the linear address. -/
  | identity
  /-- The page is not mapped. -/
  | fault (code : Dword)
deriving DecidableEq, Repr

/-- The paging state: the oracle `Translate` by linear page number (20_memory R63). -/
structure Paging where
  pages : Keyed PageEntry
  unlisted : Unlisted
deriving DecidableEq, Repr

/-- Page types (10_state R49). -/
inductive PageType where
  | secs | tcs | reg | va | trim | ssFirst | ssRest
  | other (code : Byte)
deriving DecidableEq, Repr

/-- An EPCM entry (10_state R41). -/
structure Epcm where
  valid : Bool
  blocked : Bool
  pending : Bool
  modified : Bool
  pt : PageType
  /-- `ENCLAVEADDRESS`: a linear page address. -/
  enclaveAddress : Word
  /-- `ENCLAVESECS`: the physical address of the SECS page. -/
  enclaveSecs : Word
  r : Bool
  w : Bool
deriving DecidableEq, Repr

/-- The two values of `TCS.STATE` (10_state R42, 41 R180). -/
inductive TcsState where
  | inactive
  | active
deriving DecidableEq, Repr

/-- A Thread Control Structure (10_state R42). -/
structure Tcs where
  state : TcsState
  flags : Word
  ossa : Word
  cssa : Dword
  nssa : Dword
  oentry : Word
  aep : Word
  ofsbase : Word
  ogsbase : Word
  fslimit : Dword
  gslimit : Dword
  ocetssa : Word
  prevssp : Word
deriving DecidableEq, Repr

/-- An SGX Enclave Control Structure (10_state R44). -/
structure Secs where
  baseaddr : Word
  size : Word
  ssaframesize : Dword
  mode64bit : Bool
  xfrm : Word
  aexnotify : Bool
  initialized : Bool
  cetAttributes : Byte
  cetLegBitmapOffset : Word
deriving DecidableEq, Repr

/-- The EPC: by page number, the EPCM entry of each page and the TCS or SECS record it holds (10_state R41, R43, R45;
log 15). -/
structure Epc where
  epcm : Keyed Epcm
  tcs : Keyed Tcs
  secs : Keyed Secs
deriving DecidableEq, Repr

/-- The faults, exactly those of 60_exceptions R261. Each stops the step with the state as it was before the
instruction, and is handed to the host, which is the spec's own end of the transition (R265, R266). -/
inductive Fault where
  /-- #UD. Raised by ENCLU when it is not available (30_encoding R96). Safe: the spec's own fault. -/
  | ud
  /-- #GP(0). Raised by every check of 60_exceptions R251. Safe: the spec's own fault. -/
  | gp0
  /-- #PF with its linear address and error code. Raised by every check of 60_exceptions R253, and by the fetch of an
  instruction that does not translate (log 23). Safe: the spec's own fault. -/
  | pf (addr : Word) (code : Dword)
deriving DecidableEq, Repr

/-- The refusals: launches to which the spec gives no meaning. -/
inductive Refusal where
  /-- An instruction whose meaning is not modelled yet. Raised by `exec` only; no arm raises it. Safe. -/
  | notModelled (mnemonic : String)
  /-- `OtherLeaf`: ENCLU with EAX other than 02H (30_encoding R98). Raised by ENCLU. Safe. -/
  | otherLeaf
  /-- `PrefixedENCLU` (30_encoding R97). Raised by the fetch and decode. Safe. -/
  | prefixedEnclu
  /-- `WideFieldIn32BitMode` (41 R141). Raised by EENTER. Safe. -/
  | wideFieldIn32BitMode
  /-- `GprAreaCrossesPage` (41 R172). Raised by EENTER. Safe. -/
  | gprAreaCrossesPage
  /-- Bytes that are not ENCLU: "not in scope" (30_encoding R101), or that the fetch window cuts short (log 44). Raised by
  the fetch and decode. Safe. -/
  | notInScope
  /-- A pended #DB or MTF VM exit is due before the next enclave instruction; its delivery is outside the spec
  (42 R218, 92 D22; log 24). Raised by `step`. Safe. -/
  | pendingEventDue
  /-- An instruction byte beyond the CS limit (32-bit mode) or at a non-canonical address (64-bit mode): the spec does
  not say what such a fetch does (log 23). Raised by the fetch. Safe. -/
  | fetchOutsideCode
  /-- An instruction byte of memory that nothing has written (log 17). Raised by the fetch. Safe. -/
  | fetchUnwritten
deriving DecidableEq, Repr

/-- The state of the logical processor, of the memory and SGX structures it shares, and of its configuration. -/
structure State where
  cfg : Config
  gpr : Gprs
  rip : Word
  rflags : Word
  seg : Segs
  sys : SysRegs
  perf : PerfMon
  dbg : DebugState
  virt : VirtState
  sgx : SgxRegs
  /-- Cached translations: linear page number and frame (10_state R40 (b); log 34). -/
  linearContext : List (BitVec 52 × BitVec 52)
  /-- Bytes by physical address (20_memory R60). -/
  mem : List Host.Cell
  paging : Paging
  epc : Epc
  /-- The environment's draws for the next launch (log 12). -/
  draws : Draws
  /-- How many free values have been taken (log 8). -/
  freeCount : Nat
deriving DecidableEq, Repr

/-- Access rights of a data or code segment register at reset: type 3, S = P = 1 (log 4). -/
def AccessRights.atReset : AccessRights :=
  { type := 3, s := true, dpl := 0, p := true, avl := false, l := false, b := false, g := false, unusable := false }

/-- SS, DS, ES, FS and GS at reset (log 4). -/
def SegReg.atReset : SegReg :=
  { selector := 0, base := 0, limit := 0xFFFF, ar := .atReset }

/-- A save register that holds nothing yet (log 5). -/
def SegReg.zero : SegReg :=
  { selector := 0, base := 0, limit := 0,
    ar := { type := 0, s := false, dpl := 0, p := false, avl := false, l := false, b := false, g := false,
            unusable := false } }

/-- The machine right after reset (10_state R50, 70_reset R290, R291). `CR_ENCLAVE_MODE` is 0 (D24, log 6) and no EPCM
entry is valid; registers take the family's reset values (log 4); the rest takes named values (log 3, log 5, log 12). -/
def State.reset : State where
  cfg := {}
  gpr := { rax := 0, rcx := 0, rdx := 0x600, rbx := 0, rsp := 0, rbp := 0, rsi := 0, rdi := 0,
           r8 := 0, r9 := 0, r10 := 0, r11 := 0, r12 := 0, r13 := 0, r14 := 0, r15 := 0 }
  rip := 0xFFF0
  rflags := 2
  seg := { cs := { SegReg.atReset with selector := 0xF000, base := 0xFFFF0000 },
           ss := .atReset, ds := .atReset, es := .atReset, fs := .atReset, gs := .atReset }
  sys := { cr0 := 0x60000010, cr2 := 0, cr3 := 0, cr4 := 0, efer := 0, xcr0 := 1, uCet := 0, ssp := 0, cpl := 0,
           sgxEnabled := false }
  perf := { fixedCtr1 := 0, fixedCtr2 := 0, globalStatus := 0, suppressed := false, pebsSuppressed := false,
            active := false, siblings := [] }
  dbg := { breakpoints := [], pendingDb := false }
  virt := { mtfControl := false, pendingMtf := false, mtfSuppressed := false }
  sgx := { enclaveMode := false, activeSecs := 0, elrange := { base := 0, size := 0 }, tcsPa := 0, tcsLa := 0,
           gprPa := 0, xsavePages := [], cetSaveAreaPa := 0, saveFs := .zero, saveGs := .zero, saveXcr0 := 0,
           dbgOptIn := false, saveTf := false, saveUCet := 0, saveSsp := 0 }
  linearContext := []
  mem := []
  paging := { pages := [], unlisted := .identity }
  epc := { epcm := [], tcs := [], secs := [] }
  draws := { tcsLockConflict := false, secsInUse := false }
  freeCount := 0

end Sys2Proof.Machine
end

