-- ==== Sys2Proof/Machine/Flags.lean ====
section
/-! DEFINITION. The named bits of registers and fields. Bit positions are the spec's general knowledge (10_state R24 to
R29, R42; log 29). -/

namespace Sys2Proof.Machine

/-- The mask of one bit of a 64-bit register. -/
def bitMask (i : Nat) : Word := 1#64 <<< i

/-- A register with one bit set. -/
def setBit (w : Word) (i : Nat) : Word := w ||| bitMask i

/-- A register with one bit cleared. -/
def clearBit (w : Word) (i : Nat) : Word := w &&& ~~~ (bitMask i)

/-- Bit number of RFLAGS.TF (10_state R24). -/
def tfBit : Nat := 8

/-- RFLAGS.TF, the only flag EENTER reads or writes (10_state R24). -/
def rflagsTf (rflags : Word) : Bool := rflags.getLsbD tfBit

/-- RFLAGS.VM (10_state R24, 30_encoding R96). -/
def rflagsVm (rflags : Word) : Bool := rflags.getLsbD 17

/-- CR0.PE (30_encoding R96; its position is PRESUMED, log 29). -/
def cr0Pe (cr0 : Word) : Bool := cr0.getLsbD 0

/-- CR4.OSFXSR (10_state R26). -/
def cr4Osfxsr (cr4 : Word) : Bool := cr4.getLsbD 9

/-- CR4.OSXSAVE (10_state R26). -/
def cr4Osxsave (cr4 : Word) : Bool := cr4.getLsbD 18

/-- CR4.CET (10_state R26). -/
def cr4Cet (cr4 : Word) : Bool := cr4.getLsbD 23

/-- IA32_EFER.LMA (10_state R27). -/
def eferLma (efer : Word) : Bool := efer.getLsbD 10

/-- SH_STK_EN of IA32_U_CET and of a zero-extended `SECS.CET_ATTRIBUTES` (10_state R29). -/
def cetShStkEn (cet : Word) : Bool := cet.getLsbD 0

/-- ENDBR_EN (10_state R29). -/
def cetEndbrEn (cet : Word) : Bool := cet.getLsbD 2

/-- LEG_IW_EN (10_state R29). -/
def cetLegIwEn (cet : Word) : Bool := cet.getLsbD 3

/-- `TCS.FLAGS.DBGOPTIN` (10_state R42). -/
def flagsDbgOptIn (flags : Word) : Bool := flags.getLsbD 0

/-- `TCS.FLAGS.AEXNOTIFY` (10_state R42). -/
def flagsAexNotify (flags : Word) : Bool := flags.getLsbD 1

/-- The bits of `TCS.FLAGS` that must be zero (41 R160). -/
def flagsReserved : Word := 0xFFFFFFFFFFFFFFFC

/-- Code bit of a segment type: 1 = code, 0 = data (10_state R25, 92 D14). -/
def typeCode (type : BitVec 4) : Bool := type.getLsbD 3

/-- Expand-down bit of a data segment's type (10_state R25, 92 D14). -/
def typeExpandDown (type : BitVec 4) : Bool := type.getLsbD 2

/-- `W`, the writable bit of a data segment's type (10_state R25, 92 D14). -/
def typeW (type : BitVec 4) : Bool := type.getLsbD 1

/-- `type := 0001b` followed by `W := w` (42 R213, 92 D14). -/
def accessedDataType (w : Bool) : BitVec 4 := if w then 0b0011 else 0b0001

end Sys2Proof.Machine
end

