-- ==== Sys2Proof/Machine/Ops.lean ====
section
/-! DEFINITION. The shared operations: keyed data and memory, the paging oracle, the EPC, and raising a fault. -/

namespace Sys2Proof.Machine

/-! ### Keyed data -/

/-- The entry of a number, if one is listed. -/
def keyedGet {α : Type} : Keyed α → Nat → Option α
  | [], _ => none
  | (k', v) :: m, k => if k' = k then some v else keyedGet m k

/-- The entry of a number, or what an unlisted number reads as. -/
def keyedGetD {α : Type} (d : α) (m : Keyed α) (k : Nat) : α := (keyedGet m k).getD d

/-- List `v` at number `k`, keeping the numbers rising. -/
def keyedPut {α : Type} : Keyed α → Nat → α → Keyed α
  | [], k, v => [(k, v)]
  | (k', v') :: m, k, v =>
    if k < k' then (k, v) :: (k', v') :: m
    else if k = k' then (k, v) :: m
    else (k', v') :: keyedPut m k v

/-- Remove the entry of a number. -/
def keyedErase {α : Type} (m : Keyed α) (k : Nat) : Keyed α := m.filter fun e => decide (e.1 ≠ k)

/-- Write `v` at number `k` where an unlisted number reads as `d`: writing `d` removes the entry. -/
def keyedSet {α : Type} [DecidableEq α] (d : α) (m : Keyed α) (k : Nat) (v : α) : Keyed α :=
  if v = d then keyedErase m k else keyedPut m k v

/-- Numbers strictly rise. -/
abbrev keyedSorted {α : Type} (m : Keyed α) : Prop := m.Pairwise fun a b => a.1 < b.1

/-- The canonical form: numbers strictly rise and no entry equals what an unlisted number reads as. -/
abbrev keyedWf {α : Type} (d : α) (m : Keyed α) : Prop := keyedSorted m ∧ ∀ e ∈ m, e.2 ≠ d

/-! ### Byte memory (20_memory R60, R68; 00_scope R12) -/

/-- The canonical form of byte memory: addresses strictly rise and lie in the 64-bit physical address space. An unlisted
byte has no value (log 17), so no entry can equal it. -/
abbrev Memory.wf (m : List Host.Cell) : Prop := keyedSorted m ∧ ∀ c ∈ m, c.1 < 2 ^ 64

/-- The byte at a physical address; none where nothing has written (log 17). -/
def memReadByte (m : List Host.Cell) (pa : Word) : Option Byte := keyedGet m pa.toNat

/-- Store one byte at a physical address. -/
def memWriteByte (m : List Host.Cell) (pa : Word) (b : Byte) : List Host.Cell := keyedPut m pa.toNat b

/-- Store bytes at rising physical addresses. -/
def memWriteBytes : List Host.Cell → Word → List Byte → List Host.Cell
  | m, _, [] => m
  | m, pa, b :: bs => memWriteBytes (memWriteByte m pa b) (pa + 1) bs

/-- The `n` bytes at rising physical addresses, if every one has a value. -/
def memReadBytes (m : List Host.Cell) : Word → Nat → Option (List Byte)
  | _, 0 => some []
  | pa, n + 1 =>
    match memReadByte m pa, memReadBytes m (pa + 1) n with
    | some b, some bs => some (b :: bs)
    | _, _ => none

/-- The eight bytes of a word, least significant first: little-endian (20_memory R68, 92 D1; log 22). -/
def wordBytes (v : Word) : List Byte :=
  [v.extractLsb' 0 8, v.extractLsb' 8 8, v.extractLsb' 16 8, v.extractLsb' 24 8,
   v.extractLsb' 32 8, v.extractLsb' 40 8, v.extractLsb' 48 8, v.extractLsb' 56 8]

/-- `PhysWrite(pa, 8, v)` (00_scope R12). -/
def physWrite8 (m : List Host.Cell) (pa v : Word) : List Host.Cell := memWriteBytes m pa (wordBytes v)

/-! ### Pages and the paging oracle -/

/-- The number of the 4-KByte page of an address. -/
def pageNumber (a : Word) : Nat := (a >>> 12).toNat

/-- `PageOf(a) = a & ~0xFFF` (00_scope R15). -/
def pageOf (a : Word) : Word := a &&& ~~~ 0xFFF#64

/-- The oracle's answer for one kind of access. -/
def translationFor (e : PageEntry) : Access → Translation
  | .read => e.onRead
  | .write => e.onWrite
  | .readWrite => e.onReadWrite
  | .fetch => e.onFetch

/-- `Translate(la, access)`: the physical address, or the error code of the oracle's page fault (20_memory R63; log 16).
A translation keeps the offset in the page. -/
def translate (p : Paging) (la : Word) (a : Access) : Except Dword Word :=
  match keyedGet p.pages (pageNumber la) with
  | some e =>
    match translationFor e a with
    | .mapped frame => .ok (frame ++ la.setWidth 12)
    | .fault code => .error code
  | none =>
    match p.unlisted with
    | .identity => .ok la
    | .fault code => .error code

/-! ### The EPC -/

/-- `IsEPC(PageOf(pa))` (20_memory R64). -/
def isEpc (c : Config) (pa : Word) : Bool :=
  c.epcSections.any fun sec =>
    decide (sec.firstPage ≤ pageNumber pa) && decide (pageNumber pa < sec.firstPage + sec.pages)

/-- The EPCM entry of an unlisted EPC page: not valid (10_state R50, GK). -/
def epcmUnlisted : Epcm :=
  { valid := false, blocked := false, pending := false, modified := false, pt := .secs, enclaveAddress := 0,
    enclaveSecs := 0, r := false, w := false }

/-- The TCS record of an EPC page that lists none (log 15). -/
def tcsUnlisted : Tcs :=
  { state := .inactive, flags := 0, ossa := 0, cssa := 0, nssa := 0, oentry := 0, aep := 0, ofsbase := 0,
    ogsbase := 0, fslimit := 0, gslimit := 0, ocetssa := 0, prevssp := 0 }

/-- The SECS record of an EPC page that lists none: an enclave that is not initialised (log 15). -/
def secsUnlisted : Secs :=
  { baseaddr := 0, size := 0, ssaframesize := 0, mode64bit := false, xfrm := 0, aexnotify := false,
    initialized := false, cetAttributes := 0, cetLegBitmapOffset := 0 }

/-- `EPCM(pa)`: the entry of the page that holds `pa` (20_memory R65). -/
def epcmAt (e : Epc) (pa : Word) : Epcm := keyedGetD epcmUnlisted e.epcm (pageNumber pa)

/-- The TCS record of the page that holds `pa` (10_state R43). -/
def tcsAt (e : Epc) (pa : Word) : Tcs := keyedGetD tcsUnlisted e.tcs (pageNumber pa)

/-- The SECS record of the page that holds `pa` (10_state R45). -/
def secsAt (e : Epc) (pa : Word) : Secs := keyedGetD secsUnlisted e.secs (pageNumber pa)

/-- Write the TCS record of the page that holds `pa`. -/
def putTcs (e : Epc) (pa : Word) (t : Tcs) : Epc :=
  { e with tcs := keyedSet tcsUnlisted e.tcs (pageNumber pa) t }

/-! ### The cached pages of the XSAVE region -/

/-- `CR_XSAVE_PAGE_n` (10_state R37): every index holds a value, 0 until one is written (log 5). -/
def xsavePage (r : SgxRegs) (n : Nat) : Word := keyedGetD 0 r.xsavePages n

/-- Write `CR_XSAVE_PAGE_n` for the indices from `n` on, one for each address. -/
def putXsavePages : Keyed Word → Nat → List Word → Keyed Word
  | m, _, [] => m
  | m, n, pa :: pas => putXsavePages (keyedSet 0 m n pa) (n + 1) pas

/-! ### Raising -/

/-- Why an instruction ends without an effect. -/
inductive Stop where
  | fault (f : Fault)
  | refuse (r : Refusal)
deriving DecidableEq, Repr

/-- Taking an exception, in one place: "release locks, abort, and deliver that fault". The step ends with the fault value
and no state, which is the state before the instruction, and hands it to the host; the source describes nothing of the
delivery, and no return from it (00_scope R13, 60_exceptions R265, R266, R268; log 26). -/
def raiseStop : Stop → Host.Outcome State Fault Refusal
  | .fault f => .fault f
  | .refuse r => .refused r

/-- A check: it passes with a value, or ends the instruction (00_scope R16). -/
abbrev Check (α : Type) := Except Stop α

/-- `if c then raise st`. -/
def raiseIf (c : Prop) [Decidable c] (st : Stop) : Check Unit := if c then .error st else .ok ()

/-- `raise #GP(0)`; the error code is always 0 (60_exceptions R252). -/
def raiseGp : Stop := .fault .gp0

/-- `raise #PF(la)` for a failure of EENTER's own checks, with the code `PFEC` (60_exceptions R254). -/
def raisePf (la : Word) (cause : PfCause) (a : Access) : Stop := .fault (.pf la (Config.pfec cause a))

/-- `Translate`, whose fault is delivered unchanged as `#PF(la)` with the oracle's error code (20_memory R63,
60_exceptions R262). -/
def translateOrRaise (s : State) (la : Word) (a : Access) : Check Word :=
  match translate s.paging la a with
  | .ok pa => .ok pa
  | .error code => .error (.fault (.pf la code))

end Sys2Proof.Machine
end

