-- ==== Sys2Proof/Machine/Operands.lean ====
section
/-! DEFINITION. The operand forms: registers and addresses at the width of the mode (00_scope R7, R11, R14, R15;
10_state R22; 20_memory R61; 41 R141, R142). -/

namespace Sys2Proof.Machine

/-- `TMP_MODE64 := (IA32_EFER.LMA = 1) && (CS.L = 1)` (41 R142). -/
def mode64 (s : State) : Bool := eferLma s.sys.efer && s.seg.cs.ar.l

/-- A value reduced modulo 2^W, W = 64 when `m` and 32 otherwise, held zero-extended (41 R141). -/
def atWidth (m : Bool) (v : Word) : Word := if m then v else (v.setWidth 32).setWidth 64

/-- A register after a write at the width of the mode: in 32-bit mode the upper half keeps its value (10_state R22,
92 D19). -/
def writeAtWidth (m : Bool) (old v : Word) : Word :=
  if m then v else old.extractLsb' 32 32 ++ v.setWidth 32

/-- A 64-bit place after a write at the width of the mode where the spec is silent on the upper half: in 32-bit mode
that half is the `n`-th free value (92 D19; log 8, log 9). -/
def writeFreeUpper (m : Bool) (n : Nat) (v : Word) : Word :=
  if m then v else Config.freeDword n ++ v.setWidth 32

/-- A general register, all 64 bits. -/
def gprGet (g : Gprs) : Gpr → Word
  | .rax => g.rax
  | .rcx => g.rcx
  | .rdx => g.rdx
  | .rbx => g.rbx
  | .rsp => g.rsp
  | .rbp => g.rbp
  | .rsi => g.rsi
  | .rdi => g.rdi
  | .r8 => g.r8
  | .r9 => g.r9
  | .r10 => g.r10
  | .r11 => g.r11
  | .r12 => g.r12
  | .r13 => g.r13
  | .r14 => g.r14
  | .r15 => g.r15

/-- Replace a general register, all 64 bits. -/
def gprSet (g : Gprs) (r : Gpr) (v : Word) : Gprs :=
  match r with
  | .rax => { g with rax := v }
  | .rcx => { g with rcx := v }
  | .rdx => { g with rdx := v }
  | .rbx => { g with rbx := v }
  | .rsp => { g with rsp := v }
  | .rbp => { g with rbp := v }
  | .rsi => { g with rsi := v }
  | .rdi => { g with rdi := v }
  | .r8 => { g with r8 := v }
  | .r9 => { g with r9 := v }
  | .r10 => { g with r10 := v }
  | .r11 => { g with r11 := v }
  | .r12 => { g with r12 := v }
  | .r13 => { g with r13 := v }
  | .r14 => { g with r14 := v }
  | .r15 => { g with r15 := v }

/-- `x[r]`: a general register at the width of the mode, zero-extended (00_scope R11, 10_state R22). -/
def reg (s : State) (r : Gpr) : Word := atWidth (mode64 s) (gprGet s.gpr r)

/-- `x[r] <- v` in a register file (10_state R22). -/
def gprWrite (m : Bool) (g : Gprs) (r : Gpr) (v : Word) : Gprs :=
  gprSet g r (writeAtWidth m (gprGet g r) v)

/-- The leaf number: EAX, 32 bits in both modes (30_encoding R92). -/
def leafNumber (s : State) : Dword := s.gpr.rax.setWidth 32

/-- The instruction pointer at the width of the mode (10_state R23). -/
def ip (s : State) : Word := atWidth (mode64 s) s.rip

/-- The base of a segment at the width of the mode (10_state R25; log 42). -/
def segBase (m : Bool) (r : SegReg) : Word := atWidth m r.base

/-- `DS:x` (20_memory R61): in 64-bit mode the base is taken as zero. -/
def dsAddr (s : State) (x : Word) : Word :=
  if mode64 s then x else atWidth false (s.seg.ds.base + x)

/-- `CS:x` (20_memory R61). -/
def csAddr (s : State) (x : Word) : Word :=
  if mode64 s then x else atWidth false (s.seg.cs.base + x)

/-- `IsAligned(a, k)` for `k` a power of two (00_scope R15). -/
def isAligned (a k : Word) : Bool := a &&& (k - 1) == 0

/-- `IsCanonical(a)`: bits 63 down to `LA_WIDTH - 1` are all equal (00_scope R14). -/
def isCanonical (c : Config) (a : Word) : Bool :=
  let top := a >>> (c.laWidth.bits - 1)
  top == 0 || top == (BitVec.allOnes 64) >>> (c.laWidth.bits - 1)

/-- "IP following EENTER": `(pc + ENCLU_LEN) mod 2^W` (30_encoding R94, 42 R209). -/
def nextIp (s : State) : Word := atWidth (mode64 s) (s.rip + BitVec.ofNat 64 s.cfg.encluLen)

/-- `ENCLU_available` as 30_encoding R96 gives it from general knowledge (92 D3). -/
def encluAvailableGk (s : State) : Bool :=
  s.cfg.sgx1 && s.sys.sgxEnabled && cr0Pe s.sys.cr0 && !(rflagsVm s.rflags) && s.sys.cpl == 3

/-- `ENCLU_available`, the predicate that the configuration names (00_scope R6, R8; log 7). -/
def encluAvailable (s : State) : Bool :=
  match s.cfg.encluAvailability with
  | .generalKnowledge => encluAvailableGk s
  | .other =>
    Config.openEncluAvailable s.cfg s.sys.sgxEnabled s.sys.cr0 s.sys.cr4 s.sys.efer s.rflags s.sys.cpl

end Sys2Proof.Machine
end

