-- ==== Sys2Proof/Machine/Temps.lean ====
section
/-! DEFINITION. The temporaries of EENTER (40_eenter_overview R122), each as a function of the launch. They are not state:
they do not survive the instruction. -/

namespace Sys2Proof.Machine

/-- One reading of the TCS page and of its SECS (41 R150, R159). -/
structure Launch where
  /-- `tcs_pa`: the physical address of the TCS (41 R146). -/
  tcsPa : Word
  /-- `TMP_SECS`: `EPCM(tcs_pa).ENCLAVESECS` (41 R159). -/
  tmpSecs : Word
  tcs : Tcs
  secs : Secs
deriving DecidableEq, Repr

/-- The launch whose TCS is at a physical address (41 R150, R159). -/
def launchAt (s : State) (tcsPa : Word) : Launch :=
  let tmpSecs := (epcmAt s.epc tcsPa).enclaveSecs
  { tcsPa := tcsPa, tmpSecs := tmpSecs, tcs := tcsAt s.epc tcsPa, secs := secsAt s.epc tmpSecs }

/-- The linear address of the TCS, `DS:x[RBX]`. -/
def tcsLa (s : State) : Word := dsAddr s (reg s .rbx)

/-- `TMP_SSA` (41 R167). -/
def tmpSsa (m : Bool) (L : Launch) : Word :=
  atWidth m (L.tcs.ossa + L.secs.baseaddr + 4096 * L.secs.ssaframesize.setWidth 64 * L.tcs.cssa.setWidth 64)

/-- `XSAVE_FRAME_SIZE(XFRM)`: the configuration's table, and an open value for an XFRM it does not list
(00_scope R6, 92 D37; log 19). -/
def xsaveFrameSize (c : Config) (xfrm : Word) : Word :=
  match c.xsaveFrameSizes.find? (fun e => e.1 == xfrm) with
  | some e => e.2
  | none => Config.openXsaveFrameSize xfrm

/-- `TMP_XSIZE` (41 R168). -/
def tmpXsize (c : Config) (L : Launch) : Nat := (xsaveFrameSize c L.secs.xfrm).toNat

/-- How many pages the SSA loop visits (41 R169, 92 D9). -/
def ssaPageCount (c : Config) (L : Launch) : Nat :=
  if c.ssaLoopInclusive then tmpXsize c L / 4096 + 1 else (tmpXsize c L + 4095) / 4096

/-- `TMP_SSA_PAGE` at iteration `n` of the loop (41 R169). -/
def tmpSsaPage (m : Bool) (L : Launch) (n : Nat) : Word := atWidth m (tmpSsa m L + 4096 * BitVec.ofNat 64 n)

/-- `TMP_GPR` (41 R171). -/
def tmpGpr (c : Config) (m : Bool) (L : Launch) : Word :=
  atWidth m (tmpSsa m L + 4096 * L.secs.ssaframesize.setWidth 64 - BitVec.ofNat 64 c.gprsgxSize)

/-- `TMP_TARGET` (41 R175). -/
def tmpTarget (m : Bool) (L : Launch) : Word := atWidth m (L.tcs.oentry + L.secs.baseaddr)

/-- `TMP_FSBASE` (41 R176, R179). -/
def tmpFsBase (m : Bool) (L : Launch) : Word := atWidth m (L.tcs.ofsbase + L.secs.baseaddr)

/-- `TMP_GSBASE` (41 R176, R179). -/
def tmpGsBase (m : Bool) (L : Launch) : Word := atWidth m (L.tcs.ogsbase + L.secs.baseaddr)

/-- `TMP_FSLIMIT`: the last linear address of the proposed FS segment, 32-bit mode (41 R176). -/
def tmpFsLimit (L : Launch) : Word := atWidth false (L.tcs.ofsbase + L.secs.baseaddr + L.tcs.fslimit.setWidth 64)

/-- `TMP_GSLIMIT`, 32-bit mode (41 R176). -/
def tmpGsLimit (L : Launch) : Word := atWidth false (L.tcs.ogsbase + L.secs.baseaddr + L.tcs.gslimit.setWidth 64)

/-- `zext_64(SECS.CET_ATTRIBUTES)`. -/
def cetAttributes (L : Launch) : Word := L.secs.cetAttributes.setWidth 64

/-- The enclave enables shadow stacks or indirect branch tracking. -/
def cetWanted (L : Launch) : Bool := cetShStkEn (cetAttributes L) || cetEndbrEn (cetAttributes L)

/-- `cet_on` (41 R184). -/
def cetOn (c : Config) (L : Launch) : Bool := c.sgxCet && cetWanted L

/-- `TMP_IA32_U_CET`, formed modulo 2^64 in both modes (41 R181, R184). -/
def tmpUCet (c : Config) (L : Launch) : Word :=
  if cetOn c L then
    if cetLegIwEn (cetAttributes L) && cetEndbrEn (cetAttributes L) then
      cetAttributes L + L.secs.baseaddr + L.secs.cetLegBitmapOffset
    else cetAttributes L
  else 0

/-- `TMP_SSP` (41 R181, R186). -/
def tmpSsp (c : Config) (L : Launch) : Word :=
  if cetOn c L && cetShStkEn (tmpUCet c L) then L.tcs.prevssp else 0

/-- `TMP_CET_SAVE_AREA` (41 R185). -/
def tmpCetSaveArea (m : Bool) (L : Launch) : Word :=
  atWidth m (L.tcs.ocetssa + L.secs.baseaddr + 16 * L.tcs.cssa.setWidth 64)

/-- `TMP_CET_SAVE_PAGE` (41 R185). -/
def tmpCetSavePage (m : Bool) (L : Launch) : Word := pageOf (tmpCetSaveArea m L)

end Sys2Proof.Machine
end

