-- ==== Sys2Proof/Machine/Checks.lean ====
section
/-! DEFINITION. EENTER, part 1: the checks of spec/41_eenter_checks.md, each a function that passes or raises, and their
order (40_eenter_overview R131). No check writes state. -/

namespace Sys2Proof.Machine

/-- Executed in enclave mode (R140). -/
def checkNotInEnclave (s : State) : Check Unit := raiseIf s.sgx.enclaveMode raiseGp

/-- DS usable and not an expand-down data segment, 32-bit mode (R143). -/
def checkDs (s : State) : Check Unit :=
  raiseIf (mode64 s = false ∧ (s.seg.ds.ar.unusable ∨
    (s.seg.ds.ar.s ∧ typeCode s.seg.ds.ar.type = false ∧ typeExpandDown s.seg.ds.ar.type))) raiseGp

/-- Bases zero and a 32-bit stack, 32-bit mode (R144). -/
def checkBases (s : State) : Check Unit := do
  raiseIf (mode64 s = false ∧ (segBase false s.seg.cs ≠ 0 ∨ segBase false s.seg.ds ≠ 0)) raiseGp
  raiseIf (mode64 s = false ∧ s.seg.es.ar.unusable = false ∧ segBase false s.seg.es ≠ 0) raiseGp
  raiseIf (mode64 s = false ∧ s.seg.ss.ar.unusable = false ∧ segBase false s.seg.ss ≠ 0) raiseGp
  raiseIf (mode64 s = false ∧ s.seg.ss.ar.unusable = false ∧ s.seg.ss.ar.b = false) raiseGp

/-- The TCS is 4-KByte aligned (R145). -/
def checkTcsAligned (s : State) : Check Unit := raiseIf (isAligned (tcsLa s) 4096 = false) raiseGp

/-- The TCS operand lies inside DS, 32-bit mode, in the natural numbers (R147). -/
def checkTcsInDs (s : State) : Check Unit :=
  raiseIf (mode64 s = false ∧ s.cfg.checkDsLimitTcs ∧ (reg s .rbx).toNat + 4095 > s.seg.ds.limit.toNat) raiseGp

/-- A TCS address that is not canonical faults; which fault is a draw (R148, 92 D6; log 11). -/
def checkTcsCanonical (s : State) : Check Unit :=
  raiseIf (mode64 s ∧ isCanonical s.cfg (reg s .rbx) = false)
    (if Config.nonCanonicalTcsIsGp s.freeCount then raiseGp
     else raisePf (reg s .rbx) .notCanonical .readWrite)

/-- An address resolves within the EPC: its physical address (20_memory R64; R146, R170). -/
def resolveEpc (s : State) (la : Word) : Check Word := do
  let pa ← translateOrRaise s la .readWrite
  raiseIf (isEpc s.cfg pa = false) (raisePf la .notEpc .readWrite)
  return pa

/-- The AEP is canonical, 64-bit mode (R149). -/
def checkAepCanonical (s : State) : Check Unit :=
  raiseIf (mode64 s ∧ isCanonical s.cfg (reg s .rcx) = false) raiseGp

/-- No other SGX instruction holds the TCS or its SECS (R151, R152; log 12). -/
def checkConcurrency (s : State) : Check Unit := do
  raiseIf s.draws.tcsLockConflict raiseGp
  raiseIf s.draws.secsInUse raiseGp

/-- The TCS page: valid, not blocked, at its own address and of type TCS, not pending or modified (R153 to R156). -/
def checkTcsPage (s : State) (tcsPa : Word) : Check Unit := do
  raiseIf ((epcmAt s.epc tcsPa).valid = false) (raisePf (tcsLa s) .notValid .readWrite)
  raiseIf (epcmAt s.epc tcsPa).blocked (raisePf (tcsLa s) .blocked .readWrite)
  raiseIf ((epcmAt s.epc tcsPa).enclaveAddress ≠ tcsLa s ∨ (epcmAt s.epc tcsPa).pt ≠ .tcs)
    (raisePf (tcsLa s) .wrongPage .readWrite)
  raiseIf ((epcmAt s.epc tcsPa).pending ∨ (epcmAt s.epc tcsPa).modified)
    (raisePf (tcsLa s) .pendingOrModified .readWrite)

/-- A 64-bit field with a non-zero upper half. -/
def wide (v : Word) : Bool := !(v >>> 32 == 0)

/-- `WideFieldIn32BitMode` (R141, 92 D8; log 20). -/
def checkNarrow (m : Bool) (L : Launch) : Check Unit :=
  raiseIf (m = false ∧ (wide L.secs.baseaddr ∨ wide L.tcs.ossa ∨ wide L.tcs.oentry ∨ wide L.tcs.ofsbase ∨
    wide L.tcs.ogsbase ∨ wide L.tcs.ocetssa)) (.refuse .wideFieldIn32BitMode)

/-- The SSA, FS and GS offsets are aligned (R157, R158). -/
def checkOffsets (L : Launch) : Check Unit := do
  raiseIf (isAligned L.tcs.ossa 4096 = false) raiseGp
  raiseIf (isAligned L.tcs.ofsbase 4096 = false ∨ isAligned L.tcs.ogsbase 4096 = false) raiseGp

/-- Reserved bits of `TCS.FLAGS` (R160). -/
def checkFlagsReserved (L : Launch) : Check Unit := raiseIf (L.tcs.flags &&& flagsReserved ≠ 0) raiseGp

/-- The enclave is initialised and its mode matches (R161, R162). -/
def checkEnclave (m : Bool) (L : Launch) : Check Unit := do
  raiseIf (L.secs.initialized = false) raiseGp
  raiseIf (m ≠ L.secs.mode64bit) raiseGp

/-- OSFXSR, and a legal XFRM (R163, R164). -/
def checkXfrm (s : State) (L : Launch) : Check Unit := do
  raiseIf (cr4Osfxsr s.sys.cr4 = false) raiseGp
  if cr4Osxsave s.sys.cr4 then
    raiseIf (L.secs.xfrm &&& s.sys.xcr0 ≠ L.secs.xfrm) raiseGp
  else
    raiseIf (L.secs.xfrm ≠ 3) raiseGp

/-- AEX-Notify agrees on an opt-out entry (R165). -/
def checkAexNotify (L : Launch) : Check Unit :=
  raiseIf (flagsDbgOptIn L.tcs.flags = false ∧ flagsAexNotify L.tcs.flags ≠ L.secs.aexnotify) raiseGp

/-- A free SSA frame exists (R166). -/
def checkFreeFrame (L : Launch) : Check Unit := raiseIf (L.tcs.nssa ≤ L.tcs.cssa) raiseGp

/-- `EnclavePageCheck(la, pt)` (R170): the physical address of `la`. -/
def enclavePageCheck (s : State) (tmpSecs la : Word) (pt : PageType) : Check Word := do
  let pa ← resolveEpc s la
  raiseIf ((epcmAt s.epc pa).valid = false) (raisePf la .notValid .readWrite)
  raiseIf (epcmAt s.epc pa).blocked (raisePf la .blocked .readWrite)
  raiseIf ((epcmAt s.epc pa).pending ∨ (epcmAt s.epc pa).modified) (raisePf la .pendingOrModified .readWrite)
  raiseIf ((epcmAt s.epc pa).enclaveAddress ≠ pageOf la ∨ (epcmAt s.epc pa).pt ≠ pt ∨
      (epcmAt s.epc pa).enclaveSecs ≠ tmpSecs ∨ (epcmAt s.epc pa).r = false ∨ (epcmAt s.epc pa).w = false)
    (raisePf la .wrongPage .readWrite)
  return pa

/-- The SSA page loop from iteration `n` for `k` more pages, lowest first (R169): the values of `CR_XSAVE_PAGE_n`. -/
def ssaPageLoop (s : State) (L : Launch) : Nat → Nat → Check (List Word)
  | _, 0 => .ok []
  | n, k + 1 => do
    let pa ← enclavePageCheck s L.tmpSecs (tmpSsaPage (mode64 s) L n) .reg
    let rest ← ssaPageLoop s L (n + 1) k
    return pa :: rest

/-- The GPR area: its page passes, it does not cross a page, and in 32-bit mode it lies inside DS (R172 to R174;
log 21). -/
def gprAreaCheck (s : State) (L : Launch) : Check Word := do
  let pa ← enclavePageCheck s L.tmpSecs (tmpGpr s.cfg (mode64 s) L) .reg
  raiseIf ((tmpGpr s.cfg (mode64 s) L &&& 0xFFF).toNat + s.cfg.gprsgxSize > 4096) (.refuse .gprAreaCrossesPage)
  raiseIf (mode64 s = false ∧
    (tmpGpr s.cfg (mode64 s) L).toNat + (s.cfg.gprsgxSize - 1) > s.seg.ds.limit.toNat) raiseGp
  return pa

/-- The entry point is canonical (64-bit mode) or within CS (32-bit mode) (R175). -/
def checkTarget (s : State) (L : Launch) : Check Unit :=
  if mode64 s then raiseIf (isCanonical s.cfg (tmpTarget true L) = false) raiseGp
  else raiseIf ((tmpTarget false L).toNat > s.seg.cs.limit.toNat) raiseGp

/-- `DsSpans4GB` (R177, 92 D12). -/
def dsSpans4Gb (s : State) : Bool :=
  match s.cfg.ds4gbReading with
  | .intent => s.seg.ds.limit == 0xFFFFFFFF
  | .literal => false

/-- One proposed segment inside DS, 32-bit mode (R177, R178). -/
def segmentInDs (s : State) (base last : Word) : Bool :=
  if last < base then dsSpans4Gb s else decide (last.toNat ≤ s.seg.ds.limit.toNat)

/-- The proposed FS and GS (R176 to R179). -/
def checkFsGs (s : State) (L : Launch) : Check Unit :=
  if mode64 s then
    raiseIf (isCanonical s.cfg (tmpFsBase true L) = false ∨ isCanonical s.cfg (tmpGsBase true L) = false) raiseGp
  else do
    raiseIf (segmentInDs s (tmpFsBase false L) (tmpFsLimit L) = false) raiseGp
    raiseIf (segmentInDs s (tmpGsBase false L) (tmpGsLimit L) = false) raiseGp

/-- The TCS is not active (R180). -/
def checkInactive (L : Launch) : Check Unit := raiseIf (L.tcs.state = .active) raiseGp

/-- The enclave's CET request is admissible (R182, R183). -/
def checkCet (s : State) (L : Launch) : Check Unit := do
  raiseIf (s.cfg.sgxCet ∧ cr4Cet s.sys.cr4 = false ∧ (L.secs.cetAttributes ≠ 0 ∨ L.secs.cetLegBitmapOffset ≠ 0))
    raiseGp
  raiseIf (s.cfg.sgxCet ∧ cetWanted L ∧ isAligned L.tcs.ocetssa 16 = false) raiseGp

/-- The CET state save page: the value of `CR_CET_SAVE_AREA_PA`, if the enclave enables CET (R185). -/
def cetSaveCheck (s : State) (L : Launch) : Check (Option Word) :=
  if cetOn s.cfg L then do
    let pa ← enclavePageCheck s L.tmpSecs (tmpCetSavePage (mode64 s) L) .ssRest
    return some (pa + (tmpCetSaveArea (mode64 s) L &&& 0xFFF))
  else .ok none

/-- What the checks hand to the commit: the launch and the physical addresses they found. -/
structure Entry where
  launch : Launch
  /-- `CR_XSAVE_PAGE_n` (R169). -/
  xsavePages : List Word
  /-- `gpr_pa` (R172, R174). -/
  gprPa : Word
  /-- The value of `CR_CET_SAVE_AREA_PA`, written only when CET is on (R185). -/
  cetSaveAreaPa : Option Word
deriving DecidableEq, Repr

/-- The checks on the caller and the TCS operand, up to the locks (R140, R143 to R149, R151, R152): `tcs_pa`. -/
def callerChecks (s : State) : Check Word := do
  checkNotInEnclave s
  checkDs s
  checkBases s
  checkTcsAligned s
  checkTcsInDs s
  checkTcsCanonical s
  let tcsPa ← resolveEpc s (tcsLa s)
  checkAepCanonical s
  checkConcurrency s
  return tcsPa

/-- The checks on the TCS, the SECS and the control registers (R153 to R158, R160 to R166). -/
def controlChecks (s : State) (L : Launch) : Check Unit := do
  checkTcsPage s L.tcsPa
  checkNarrow (mode64 s) L
  checkOffsets L
  checkFlagsReserved L
  checkEnclave (mode64 s) L
  checkXfrm s L
  checkAexNotify L
  checkFreeFrame L

/-- The checks after the SSA frame (R175 to R183). -/
def entryChecks (s : State) (L : Launch) : Check Unit := do
  checkTarget s L
  checkFsGs s L
  checkInactive L
  checkCet s L

/-- Every check of EENTER, strictly in the order of 40_eenter_overview R131; the first raise ends the instruction. -/
def eenterChecks (s : State) : Check Entry := do
  let tcsPa ← callerChecks s
  let L := launchAt s tcsPa
  controlChecks s L
  let pages ← ssaPageLoop s L 0 (ssaPageCount s.cfg L)
  let gprPa ← gprAreaCheck s L
  entryChecks s L
  let cetPa ← cetSaveCheck s L
  return { launch := L, xsavePages := pages, gprPa := gprPa, cetSaveAreaPa := cetPa }

end Sys2Proof.Machine
end

