-- ==== Sys2Proof/Machine/Commit.lean ====
section
/-! DEFINITION. EENTER, part 2: the state changes of a successful entry (spec/42_eenter_commit.md). Every right-hand side
reads the state at launch, so each group of registers is one function of the launch state and the entry. -/

namespace Sys2Proof.Machine

/-- An opt-in entry: `TCS.FLAGS.DBGOPTIN = 1` (R215). -/
def optIn (e : Entry) : Bool := flagsDbgOptIn e.launch.tcs.flags

/-- How many free values one entry takes (log 8 to log 10, log 12). -/
def freeValuesPerEntry : Nat := 9

/-- RAX and RCX; every other general register is unchanged (R209, R211; 10_state R51). -/
def commitGprs (s : State) (e : Entry) : Gprs :=
  gprWrite (mode64 s) (gprWrite (mode64 s) s.gpr .rcx (nextIp s)) .rax (e.launch.tcs.cssa.setWidth 64)

/-- RIP (R210; log 9). -/
def commitRip (s : State) (e : Entry) : Word :=
  writeFreeUpper (mode64 s) (s.freeCount + 3) (tmpTarget (mode64 s) e.launch)

/-- RFLAGS: TF is cleared on an opt-out entry (R216). -/
def commitRflags (s : State) (e : Entry) : Word :=
  if optIn e then s.rflags else clearBit s.rflags tfBit

/-- The access rights of the enclave's FS and GS (R213, R214). -/
def enclaveRights (ds : SegReg) : AccessRights :=
  { type := accessedDataType (typeW ds.ar.type), s := true, dpl := ds.ar.dpl, p := true, avl := ds.ar.avl,
    l := ds.ar.l, b := true, g := true, unusable := false }

/-- The enclave's FS and GS; CS, SS, DS, ES are unchanged (R213, R214; log 9). -/
def commitSegs (s : State) (e : Entry) : Segs :=
  { s.seg with
    fs := { selector := 0x000B
            base := writeFreeUpper (mode64 s) (s.freeCount + 4) (tmpFsBase (mode64 s) e.launch)
            limit := e.launch.tcs.fslimit
            ar := enclaveRights s.seg.ds }
    gs := { selector := 0x000B
            base := writeFreeUpper (mode64 s) (s.freeCount + 5) (tmpGsBase (mode64 s) e.launch)
            limit := e.launch.tcs.gslimit
            ar := enclaveRights s.seg.ds } }

/-- The processor supports CET (R223). -/
def cpuCet (c : Config) : Bool := c.cpuCetIbt || c.cpuCetSs

/-- XCR0 (R208), IA32_U_CET and SSP (R223). -/
def commitSys (s : State) (e : Entry) : SysRegs :=
  { s.sys with
    xcr0 := if cr4Osxsave s.sys.cr4 then e.launch.secs.xfrm else s.sys.xcr0
    uCet := if cpuCet s.cfg then tmpUCet s.cfg e.launch else s.sys.uCet
    ssp := if s.cfg.cpuCetSs then tmpSsp s.cfg e.launch else s.sys.ssp }

/-- A sibling hardware thread after an opt-out entry (R221). -/
def demoteSibling (c : Config) (t : Sibling) : Sibling :=
  if t.counters.contains .anyThread then
    { counters := t.counters.map fun _ => .myThread, globalStatus := setBit t.globalStatus c.pgsBitA }
  else t

/-- Performance monitoring (R219 to R222). On an opt-in entry nothing changes (60_exceptions R274). On an opt-out entry
FIXED_CTR1 and FIXED_CTR2 keep running, and what they hold after it is a free value (R219, 60_exceptions R275; log 10). -/
def commitPerf (s : State) (e : Entry) : PerfMon :=
  { s.perf with
    fixedCtr1 := if optIn e then s.perf.fixedCtr1 else Config.freeWord (s.freeCount + 6)
    fixedCtr2 := if optIn e then s.perf.fixedCtr2 else Config.freeWord (s.freeCount + 7)
    globalStatus :=
      if !(optIn e) && s.perf.active then setBit (setBit s.perf.globalStatus s.cfg.pgsBitA) s.cfg.pgsBitB
      else s.perf.globalStatus
    suppressed := !(optIn e) || s.perf.suppressed
    pebsSuppressed := !(optIn e) || s.perf.pebsSuppressed
    siblings := if optIn e then s.perf.siblings else s.perf.siblings.map (demoteSibling s.cfg) }

/-- `BreakpointOverlapsELRANGE(b)`: the bytes watched intersect `[BASEADDR, BASEADDR + SIZE)` (60_exceptions R273), as
ranges of naturals that do not wrap (log 27). -/
def overlapsElrange (r : ElRange) (b : Breakpoint) : Bool :=
  decide (b.addr.toNat < r.base.toNat + r.size.toNat) && decide (r.base.toNat < b.addr.toNat + b.length) &&
    decide (0 < b.length) && decide (0 < r.size.toNat)

/-- Whether an entry suppresses a breakpoint (R215, R216). -/
def suppresses (r : ElRange) (isOptIn : Bool) (b : Breakpoint) : Bool :=
  match b.kind with
  | .code => !(overlapsElrange r b) || !isOptIn
  | .data => overlapsElrange r b && !isOptIn

/-- A breakpoint after an entry: suppression adds to what was suppressed before. -/
def commitBreakpoint (r : ElRange) (isOptIn : Bool) (b : Breakpoint) : Breakpoint :=
  { b with suppressed := b.suppressed || suppresses r isOptIn b }

/-- `CR_ELRANGE` (R202). -/
def enclaveRange (e : Entry) : ElRange := { base := e.launch.secs.baseaddr, size := e.launch.secs.size }

/-- Breakpoints and pending debug exceptions (R215 to R218). -/
def commitDbg (s : State) (e : Entry) : DebugState :=
  { breakpoints := s.dbg.breakpoints.map (commitBreakpoint (enclaveRange e) (optIn e))
    pendingDb := optIn e && (s.dbg.pendingDb || rflagsTf s.rflags) }

/-- The monitor trap flag (R217, R218). -/
def commitVirt (s : State) (e : Entry) : VirtState :=
  { s.virt with
    pendingMtf := optIn e && (s.virt.pendingMtf || s.virt.mtfControl)
    mtfSuppressed := !(optIn e) || s.virt.mtfSuppressed }

/-- The hidden registers (R201 to R203, R206 to R208, R215, R216, R223; R169, R174, R185 by 92 D29; log 33). -/
def commitSgx (s : State) (e : Entry) : SgxRegs :=
  { enclaveMode := true
    activeSecs := e.launch.tmpSecs
    elrange := enclaveRange e
    tcsPa := e.launch.tcsPa
    tcsLa := reg s .rbx
    gprPa := e.gprPa
    xsavePages := putXsavePages s.sgx.xsavePages 0 e.xsavePages
    cetSaveAreaPa := e.cetSaveAreaPa.getD s.sgx.cetSaveAreaPa
    saveFs := s.seg.fs
    saveGs := s.seg.gs
    saveXcr0 := if cr4Osxsave s.sys.cr4 then s.sys.xcr0 else s.sgx.saveXcr0
    dbgOptIn := optIn e
    saveTf := if optIn e then s.sgx.saveTf else rflagsTf s.rflags
    saveUCet := if cpuCet s.cfg then s.sys.uCet else s.sgx.saveUCet
    saveSsp := if s.cfg.cpuCetSs then s.sys.ssp else s.sgx.saveSsp }

/-- The TCS after an entry: STATE is ACTIVE and AEP is the old RCX; CSSA and every other field are unchanged
(R204, R205; log 8, log 31). -/
def commitTcs (s : State) (e : Entry) : Tcs :=
  { e.launch.tcs with
    state := .active
    aep := writeFreeUpper (mode64 s) s.freeCount (reg s .rcx) }

/-- `CR_GPR_PA + GPR_OFF_URSP` (R212). -/
def urspAddr (s : State) (e : Entry) : Word := e.gprPa + BitVec.ofNat 64 s.cfg.gprOffUrsp

/-- `CR_GPR_PA + GPR_OFF_URBP` (R212). -/
def urbpAddr (s : State) (e : Entry) : Word := e.gprPa + BitVec.ofNat 64 s.cfg.gprOffUrbp

/-- The value stored to `U_RSP` (R212; log 8). -/
def urspValue (s : State) : Word := writeFreeUpper (mode64 s) (s.freeCount + 1) (reg s .rsp)

/-- The value stored to `U_RBP` (R212; log 8). -/
def urbpValue (s : State) : Word := writeFreeUpper (mode64 s) (s.freeCount + 2) (reg s .rbp)

/-- Byte memory: `U_RSP` and then `U_RBP` (R212). -/
def commitMem (s : State) (e : Entry) : List Host.Cell :=
  physWrite8 (physWrite8 s.mem (urspAddr s e) (urspValue s)) (urbpAddr s e) (urbpValue s)

/-- All of phase 2 at once (R200 to R224). The linear context is emptied (R224), and the environment draws anew for the
next launch (log 12). -/
def commitEntry (s : State) (e : Entry) : State :=
  { s with
    gpr := commitGprs s e
    rip := commitRip s e
    rflags := commitRflags s e
    seg := commitSegs s e
    sys := commitSys s e
    perf := commitPerf s e
    dbg := commitDbg s e
    virt := commitVirt s e
    sgx := commitSgx s e
    linearContext := []
    mem := commitMem s e
    epc := putTcs s.epc e.launch.tcsPa (commitTcs s e)
    draws := Config.nextDraws (s.freeCount + 8)
    freeCount := s.freeCount + freeValuesPerEntry }

end Sys2Proof.Machine
end

