-- ==== Sys2Proof/Machine/Enclu.lean ====
section
/-! DEFINITION. The meaning of ENCLU and of its leaf EENTER (30_encoding R101, 40_eenter_overview R131). -/

namespace Sys2Proof.Machine

/-- EENTER: the checks, and if every one passes the committed entry, as one atomic transition (R131, 92 D16). -/
def eenter (s : State) : Host.Outcome State Fault Refusal :=
  match eenterChecks s with
  | .ok e => .next (commitEntry s e)
  | .error st => raiseStop st

/-- The leaf number of EENTER (30_encoding R91, R92). -/
def eenterLeaf : Dword := 2

/-- ENCLU: #UD when it is not available; with EAX = 02H, EENTER; any other leaf is outside the spec (30_encoding R96,
R98, R101). -/
def execEnclu (s : State) : Host.Outcome State Fault Refusal :=
  if encluAvailable s then
    if leafNumber s = eenterLeaf then eenter s else raiseStop (.refuse .otherLeaf)
  else raiseStop (.fault .ud)

end Sys2Proof.Machine
end

