-- ==== Sys2Proof/Machine/Fetch.lean ====
section
/-! DEFINITION. Fetching an instruction's bytes: through CS and the paging oracle (20_memory R60, R78; log 23). -/

namespace Sys2Proof.Machine

/-- The longest byte string the fetch looks at: an x86 instruction's greatest length (log 23). -/
def fetchWindow : Nat := 15

/-- The offset in CS of the `k`-th byte at the instruction pointer. -/
def fetchOffset (s : State) (k : Nat) : Word := atWidth (mode64 s) (s.rip + BitVec.ofNat 64 k)

/-- The offset is one that CS can address (log 23). -/
def fetchInCode (s : State) (off : Word) : Bool :=
  if mode64 s then isCanonical s.cfg off else decide (off.toNat ≤ s.seg.cs.limit.toNat)

/-- The `k`-th byte at the instruction pointer. -/
def fetchByte (s : State) (k : Nat) : Check Byte := do
  raiseIf (fetchInCode s (fetchOffset s k) = false) (.refuse .fetchOutsideCode)
  let pa ← translateOrRaise s (csAddr s (fetchOffset s k)) .fetch
  match memReadByte s.mem pa with
  | some b => .ok b
  | none => .error (.refuse .fetchUnwritten)

/-- The bytes from the `k`-th on, at most `n`, up to the first that cannot be fetched, and why that one cannot. -/
def fetchBytes (s : State) : Nat → Nat → List Byte × Option Stop
  | _, 0 => ([], none)
  | k, n + 1 =>
    match fetchByte s k with
    | .ok b => (b :: (fetchBytes s (k + 1) n).1, (fetchBytes s (k + 1) n).2)
    | .error st => ([], some st)

/-- The instruction at the instruction pointer, or why there is none: the refusal of 30_encoding R97 or R101, or what
kept a byte that the decoder needs from being fetched. A string that the fetch window cuts short of an end the decoder can
tell, as 13 or more prefixes before the bytes of ENCLU, is refused as `notInScope` and not as `prefixedEnclu`: which of
the two names it gets is the model's choice, since neither R97 nor R101 sets a limit (DESIGN CHOICE, log 44). -/
def fetchInstr (s : State) : Check Instr :=
  match decode s.cfg (mode64 s) (fetchBytes s 0 fetchWindow).1 with
  | .ok (i, _) => .ok i
  | .error .prefixedEnclu => .error (.refuse .prefixedEnclu)
  | .error .notInScope => .error (.refuse .notInScope)
  | .error .truncated => .error ((fetchBytes s 0 fetchWindow).2.getD (.refuse .notInScope))

/-- A pended #DB or MTF VM exit that is due before the next enclave instruction (42 R218, 60_exceptions R259, R260,
92 D22; log 24). -/
def pendingEventDue (s : State) : Bool := s.sgx.enclaveMode && (s.dbg.pendingDb || s.virt.pendingMtf)

/-- Store one byte where the fetch of the `k`-th byte reads it; nothing where that address does not translate. -/
def storeFetchByte (s : State) (k : Nat) (b : Byte) : State :=
  match translate s.paging (csAddr s (fetchOffset s k)) .fetch with
  | .ok pa => { s with mem := memWriteByte s.mem pa b }
  | .error _ => s

/-- Store bytes where the fetch reads them, from the `k`-th on. -/
def storeFetchBytes : State → Nat → List Byte → State
  | s, _, [] => s
  | s, k, b :: bs => storeFetchBytes (storeFetchByte s k b) (k + 1) bs

end Sys2Proof.Machine
end

