-- ==== Sys2Proof/Machine/Step.lean ====
section
/-! DEFINITION. One step of the machine. -/

namespace Sys2Proof.Machine

/-- One step: the instruction at the instruction pointer is fetched, decoded and executed. A pended event that is due
before it ends the step by name (log 24). -/
def step (s : State) : Host.Outcome State Fault Refusal :=
  if pendingEventDue s then raiseStop (.refuse .pendingEventDue)
  else
    match fetchInstr s with
    | .ok i => exec i s
    | .error st => raiseStop st

/-- The state with the instruction whose table bits are `w` stored where `step` fetches its next instruction
(log 2, log 41). -/
def State.withFetchWord (s : State) (nbits w : Nat) : State :=
  storeFetchBytes s 0 (bytesOfTableWord (nbits / 8) w ++ List.replicate (s.cfg.encluLen - nbits / 8) 0)

end Sys2Proof.Machine
end

