-- ==== Sys2Proof/Safety.lean ====
section
/-! DEFINITION. What the statements speak of: the conditions under which EENTER enters (spec/70_reset_and_hazards.md R293
to R295, each the negation of a check of spec/41_eenter_checks.md), in declarative form, and the invariant of the
machine. -/

namespace Sys2Proof.Safety

open Sys2Proof.Machine

/-- ENCLU runs EENTER, outside enclave mode (R96, R92, R140). -/
structure Callable (s : State) : Prop where
  available : encluAvailable s = true
  leaf : leafNumber s = eenterLeaf
  outside : s.sgx.enclaveMode = false

/-- The flat segments that 32-bit mode requires (R143, R144). -/
structure FlatSegments (s : State) : Prop where
  ds_usable : s.seg.ds.ar.unusable = false
  ds_expand_up :
    ¬ (s.seg.ds.ar.s = true ∧ typeCode s.seg.ds.ar.type = false ∧ typeExpandDown s.seg.ds.ar.type = true)
  cs_base : s.seg.cs.base.setWidth 32 = 0#32
  ds_base : s.seg.ds.base.setWidth 32 = 0#32
  es_base : s.seg.es.ar.unusable = false → s.seg.es.base.setWidth 32 = 0#32
  ss_base : s.seg.ss.ar.unusable = false → s.seg.ss.base.setWidth 32 = 0#32
  ss_big : s.seg.ss.ar.unusable = false → s.seg.ss.ar.b = true

/-- The TCS operand can be used: what EENTER asks of it before it looks at the address (R143 to R145, R147). -/
structure OperandOk (s : State) : Prop where
  flat : mode64 s = false → FlatSegments s
  aligned : isAligned (tcsLa s) 4096 = true
  in_ds : mode64 s = false → s.cfg.checkDsLimitTcs = true →
    (reg s .rbx).toNat + 4095 ≤ s.seg.ds.limit.toNat

/-- The TCS operand is canonical where that is asked (R148). -/
def OperandCanonical (s : State) : Prop := mode64 s = true → isCanonical s.cfg (reg s .rbx) = true

/-- The TCS resolves in the EPC, at a physical address (R146). -/
structure TcsResolves (s : State) (tcsPa : Word) : Prop where
  translates : translate s.paging (tcsLa s) .readWrite = .ok tcsPa
  in_epc : isEpc s.cfg tcsPa = true

/-- The AEP is canonical where that is asked, and no other SGX instruction holds the TCS or its SECS
(R149, R151, R152). -/
structure AepAndLocksOk (s : State) : Prop where
  aep : mode64 s = true → isCanonical s.cfg (reg s .rcx) = true
  tcs_unlocked : s.draws.tcsLockConflict = false
  secs_free : s.draws.secsInUse = false

/-- The caller's side of an entry: every check down to the locks (R140 to R152). -/
structure CallerOk (s : State) (tcsPa : Word) : Prop where
  callable : Callable s
  operand : OperandOk s
  canonical : OperandCanonical s
  resolves : TcsResolves s tcsPa
  aep_locks : AepAndLocksOk s

/-- The EPCM entry of the TCS page (R153 to R156). -/
structure TcsPageOk (s : State) (tcsPa : Word) : Prop where
  valid : (epcmAt s.epc tcsPa).valid = true
  not_blocked : (epcmAt s.epc tcsPa).blocked = false
  own_address : (epcmAt s.epc tcsPa).enclaveAddress = tcsLa s
  type : (epcmAt s.epc tcsPa).pt = .tcs
  not_pending : (epcmAt s.epc tcsPa).pending = false
  not_modified : (epcmAt s.epc tcsPa).modified = false

/-- No 64-bit field has a non-zero upper half in 32-bit mode (R141). -/
def NarrowFields (s : State) (L : Launch) : Prop :=
  mode64 s = false →
    L.secs.baseaddr.toNat < 2 ^ 32 ∧ L.tcs.ossa.toNat < 2 ^ 32 ∧ L.tcs.oentry.toNat < 2 ^ 32 ∧
      L.tcs.ofsbase.toNat < 2 ^ 32 ∧ L.tcs.ogsbase.toNat < 2 ^ 32 ∧ L.tcs.ocetssa.toNat < 2 ^ 32

/-- `SECS.ATTRIBUTES.XFRM` is legal (R164). -/
def XfrmLegal (s : State) (L : Launch) : Prop :=
  if cr4Osxsave s.sys.cr4 = true then L.secs.xfrm &&& s.sys.xcr0 = L.secs.xfrm else L.secs.xfrm = 3

/-- The TCS, the SECS and the control registers agree (R157, R158, R160 to R166). -/
structure ControlsOk (s : State) (L : Launch) : Prop where
  ossa_aligned : L.tcs.ossa.toNat % 4096 = 0
  ofsbase_aligned : L.tcs.ofsbase.toNat % 4096 = 0
  ogsbase_aligned : L.tcs.ogsbase.toNat % 4096 = 0
  flags_reserved : L.tcs.flags.toNat < 4
  initialized : L.secs.initialized = true
  mode_matches : L.secs.mode64bit = mode64 s
  osfxsr : cr4Osfxsr s.sys.cr4 = true
  xfrm_legal : XfrmLegal s L
  aexnotify : flagsDbgOptIn L.tcs.flags = false → flagsAexNotify L.tcs.flags = L.secs.aexnotify
  free_frame : L.tcs.cssa.toNat < L.tcs.nssa.toNat

/-- A page of the enclave, at its own linear address, of a type, that EENTER may read and write (R170): `la` resolves to
`pa`. -/
structure EnclavePage (s : State) (secs la : Word) (pt : PageType) (pa : Word) : Prop where
  translates : translate s.paging la .readWrite = .ok pa
  in_epc : isEpc s.cfg pa = true
  valid : (epcmAt s.epc pa).valid = true
  not_blocked : (epcmAt s.epc pa).blocked = false
  not_pending : (epcmAt s.epc pa).pending = false
  not_modified : (epcmAt s.epc pa).modified = false
  own_address : (epcmAt s.epc pa).enclaveAddress = pageOf la
  type : (epcmAt s.epc pa).pt = pt
  same_enclave : (epcmAt s.epc pa).enclaveSecs = secs
  readable : (epcmAt s.epc pa).r = true
  writable : (epcmAt s.epc pa).w = true

/-- One page of the XSAVE region of the current SSA frame (R169). -/
def SsaPageOk (s : State) (L : Launch) (n : Nat) : Prop :=
  ∃ pa, EnclavePage s L.tmpSecs (tmpSsaPage (mode64 s) L n) .reg pa

/-- Every page of the XSAVE region of the current SSA frame (R169). -/
def SsaFrameOk (s : State) (L : Launch) : Prop := ∀ n, n < ssaPageCount s.cfg L → SsaPageOk s L n

/-- The page of the GPR area (R172). -/
def GprPageOk (s : State) (L : Launch) (gprPa : Word) : Prop :=
  EnclavePage s L.tmpSecs (tmpGpr s.cfg (mode64 s) L) .reg gprPa

/-- The GPR area lies in one page (R172). -/
def GprInOnePage (s : State) (L : Launch) : Prop :=
  (tmpGpr s.cfg (mode64 s) L).toNat % 4096 + s.cfg.gprsgxSize ≤ 4096

/-- The GPR area lies inside DS where that is asked (R173). -/
def GprInDs (s : State) (L : Launch) : Prop :=
  mode64 s = false →
    (tmpGpr s.cfg (mode64 s) L).toNat + (s.cfg.gprsgxSize - 1) ≤ s.seg.ds.limit.toNat

/-- A proposed segment lies inside DS, 32-bit mode (R177, R178). -/
def ProposedInDs (s : State) (base last : Word) : Prop :=
  if last.toNat < base.toNat then s.cfg.ds4gbReading = .intent ∧ s.seg.ds.limit = 0xFFFFFFFF
  else last.toNat ≤ s.seg.ds.limit.toNat

/-- The entry point, the proposed FS and GS, the state of the TCS and the CET request (R175 to R183). -/
structure EntryPointOk (s : State) (L : Launch) : Prop where
  target64 : mode64 s = true → isCanonical s.cfg (tmpTarget true L) = true
  target32 : mode64 s = false → (tmpTarget false L).toNat ≤ s.seg.cs.limit.toNat
  bases64 : mode64 s = true →
    isCanonical s.cfg (tmpFsBase true L) = true ∧ isCanonical s.cfg (tmpGsBase true L) = true
  fs32 : mode64 s = false → ProposedInDs s (tmpFsBase false L) (tmpFsLimit L)
  gs32 : mode64 s = false → ProposedInDs s (tmpGsBase false L) (tmpGsLimit L)
  inactive : L.tcs.state = .inactive
  cet_enabled : s.cfg.sgxCet = true → cr4Cet s.sys.cr4 = false →
    L.secs.cetAttributes = 0 ∧ L.secs.cetLegBitmapOffset = 0
  cet_aligned : cetOn s.cfg L = true → L.tcs.ocetssa.toNat % 16 = 0

/-- The CET state save page, where the enclave enables CET (R185). -/
def CetSaveOk (s : State) (L : Launch) : Prop :=
  cetOn s.cfg L = true → ∃ pa, EnclavePage s L.tmpSecs (tmpCetSavePage (mode64 s) L) .ssRest pa

/-- Every condition under which EENTER enters, with the physical addresses of the TCS and of the GPR area
(R293, R294, R295). -/
structure EntryReady (s : State) (tcsPa gprPa : Word) : Prop where
  caller : CallerOk s tcsPa
  tcs_page : TcsPageOk s tcsPa
  narrow : NarrowFields s (launchAt s tcsPa)
  controls : ControlsOk s (launchAt s tcsPa)
  ssa : SsaFrameOk s (launchAt s tcsPa)
  gpr_page : GprPageOk s (launchAt s tcsPa) gprPa
  gpr_one_page : GprInOnePage s (launchAt s tcsPa)
  gpr_in_ds : GprInDs s (launchAt s tcsPa)
  entry_point : EntryPointOk s (launchAt s tcsPa)
  cet_save : CetSaveOk s (launchAt s tcsPa)

/-- The entry is opt-in: `TCS.FLAGS.DBGOPTIN = 1`. -/
def EntersOptIn (s : State) (tcsPa : Word) : Prop := flagsDbgOptIn (tcsAt s.epc tcsPa).flags = true

/-- What holds while the processor executes in an enclave that EENTER entered: the hidden registers describe a valid,
active TCS page of an initialised enclave of the processor's mode, and an opt-out entry is hidden from debug and
performance monitoring (42 R225). -/
structure InEnclave (s : State) : Prop where
  tcs_valid : (epcmAt s.epc s.sgx.tcsPa).valid = true
  tcs_type : (epcmAt s.epc s.sgx.tcsPa).pt = .tcs
  tcs_active : (tcsAt s.epc s.sgx.tcsPa).state = .active
  active_secs : s.sgx.activeSecs = (epcmAt s.epc s.sgx.tcsPa).enclaveSecs
  initialized : (secsAt s.epc s.sgx.activeSecs).initialized = true
  mode_matches : (secsAt s.epc s.sgx.activeSecs).mode64bit = mode64 s
  elrange : s.sgx.elrange =
    { base := (secsAt s.epc s.sgx.activeSecs).baseaddr, size := (secsAt s.epc s.sgx.activeSecs).size }
  xcr0 : cr4Osxsave s.sys.cr4 = true → s.sys.xcr0 = (secsAt s.epc s.sgx.activeSecs).xfrm
  opt_in : s.sgx.dbgOptIn = flagsDbgOptIn (tcsAt s.epc s.sgx.tcsPa).flags
  tf_clear : s.sgx.dbgOptIn = false → rflagsTf s.rflags = false
  nothing_pending : s.sgx.dbgOptIn = false → s.dbg.pendingDb = false ∧ s.virt.pendingMtf = false
  mtf_suppressed : s.sgx.dbgOptIn = false → s.virt.mtfSuppressed = true
  perfmon_suppressed : s.sgx.dbgOptIn = false → s.perf.suppressed = true ∧ s.perf.pebsSuppressed = true
  code_breakpoints_suppressed : s.sgx.dbgOptIn = false →
    ∀ b ∈ s.dbg.breakpoints, b.kind = .code → b.suppressed = true

/-- The invariant that every step keeps: memory, the EPC and the cached XSAVE pages keep their canonical form, and
in enclave mode the processor is in an enclave that EENTER entered. -/
structure Inv (s : State) : Prop where
  mem_wf : Memory.wf s.mem
  epcm_wf : keyedWf epcmUnlisted s.epc.epcm
  tcs_wf : keyedWf tcsUnlisted s.epc.tcs
  secs_wf : keyedWf secsUnlisted s.epc.secs
  xsave_wf : keyedWf 0 s.sgx.xsavePages
  in_enclave : s.sgx.enclaveMode = true → InEnclave s

/-- Two outcomes that 32-bit software cannot tell apart by a general register's low half: the same fault or refusal, or
next states that differ in nothing but upper halves of general registers. -/
def SameLowHalves : Host.Outcome State Fault Refusal → Host.Outcome State Fault Refusal → Prop
  | .next t, .next u =>
    u = { t with gpr := u.gpr } ∧ ∀ r, (gprGet u.gpr r).setWidth 32 = (gprGet t.gpr r).setWidth 32
  | .fault f, .fault g => f = g
  | .refused f, .refused g => f = g
  | _, _ => False

end Sys2Proof.Safety
end

