-- ==== Sys2Proof/Certificates/Slice0/Obligations.lean ====
section
/-! DEFINITION. The statements for the provers. `EntryReady s tcsPa gprPa` (Sys2Proof/Safety.lean) is the list of
conditions of spec/70_reset_and_hazards.md R293 to R295: a hypothesis on the launch state alone, with the physical
addresses of the TCS and of the GPR area. `launchAt s tcsPa` is the TCS there and its SECS. -/

open Sys2Proof Sys2Proof.Machine Sys2Proof.Safety

/-! ### Encoding, fetch and leaf selection -/

/-- 30_encoding R93, R101 (92 D2; log 1): the bytes of an instruction decode to it, whatever follows them, in both modes
and whatever bytes the configuration gives ENCLU. -/
def Obligations.EncodedInstructionDecodes : Prop :=
  ∀ (c : Config) (m : Bool) (i : Instr) (rest : List Byte), decode c m (encode c i ++ rest) = .ok (i, rest)

/-- 30_encoding R101: no other bytes decode to an instruction. -/
def Obligations.OnlyTheEncodingDecodes : Prop :=
  ∀ (c : Config) (m : Bool) (bytes rest : List Byte) (i : Instr), decode c m bytes = .ok (i, rest) →
    bytes = encode c i ++ rest

/-- 30_encoding R97: an instruction behind one or more prefixes is refused as a prefixed ENCLU, where
`ENCLU_BYTES` do not themselves start with a prefix. Which bytes are prefixes is the model's choice (log 25). -/
def Obligations.PrefixedEncluIsRefusedByName : Prop :=
  ∀ (c : Config) (m : Bool) (ps rest : List Byte) (i : Instr), c.encluUnprefixed = true → ps ≠ [] →
    (∀ p ∈ ps, isPrefixByte m p = true) → decode c m (ps ++ (encode c i ++ rest)) = .error .prefixedEnclu

/-- 30_encoding R93, 95_test_vectors 2.2 (E1, E5, E6): words written out from the spec's encoding decode as it says,
with the default `ENCLU_BYTES`, which are the spec's general knowledge (log 1). -/
def Obligations.SpecWordsDecode : Prop :=
  decodeTableWord 24 0x0F01D7 = some .enclu ∧ decodeTableWord 24 0x0F01CF = none ∧
    decode {} true [0x0F, 0x01, 0xD7] = .ok (.enclu, []) ∧
    decode {} true [0x66, 0x0F, 0x01, 0xD7] = .error .prefixedEnclu ∧
    decode {} true [0xF3, 0x0F, 0x01, 0xD7] = .error .prefixedEnclu ∧
    decode {} true [0x0F, 0x01, 0xCF] = .error .notInScope

/-- When the bytes at the instruction pointer are those of an instruction, the step executes it and nothing else, unless
a pended event is due before it (42 R218; log 24). No x86 instruction is longer than the fetch window of 15 bytes
(log 23). -/
def Obligations.StepRunsTheDecodedInstruction : Prop :=
  ∀ (s : State) (i : Instr), i.wellFormed = true → (encode s.cfg i).length ≤ 15 → pendingEventDue s = false →
    (∀ (k : Nat) (hk : k < (encode s.cfg i).length), fetchByte s k = .ok (encode s.cfg i)[k]) → step s = exec i s

/-- In enclave mode a pended #DB or MTF VM exit is due before the next instruction; its delivery is outside the spec and
the step stops by name (60_exceptions R259, R260; the model's choice, log 24). -/
def Obligations.StepStopsAtAPendedEvent : Prop :=
  ∀ s : State, s.sgx.enclaveMode = true → (s.dbg.pendingDb = true ∨ s.virt.pendingMtf = true) →
    step s = .refused .pendingEventDue

/-- 30_encoding R96, R101, 60_exceptions R258 (92 D3; log 7): ENCLU raises #UD exactly when it is not available. Under the
predicate of R96, which is general knowledge, that is when one of its five conditions fails; under another, when that
predicate, of which nothing is known, is false. -/
def Obligations.UnavailableEncluRaisesUd : Prop :=
  ∀ s : State, exec .enclu s = .fault .ud ↔
    match s.cfg.encluAvailability with
    | .generalKnowledge =>
      s.cfg.sgx1 = false ∨ s.sys.sgxEnabled = false ∨ s.sys.cr0.getLsbD 0 = false ∨ s.rflags.getLsbD 17 = true ∨
        s.sys.cpl ≠ 3
    | .other =>
      Config.openEncluAvailable s.cfg s.sys.sgxEnabled s.sys.cr0 s.sys.cr4 s.sys.efer s.rflags s.sys.cpl = false

/-- 30_encoding R98 (92 D5): an available ENCLU whose EAX is not 02H is refused as another leaf. -/
def Obligations.OtherLeafIsRefused : Prop :=
  ∀ s : State, encluAvailable s = true → s.gpr.rax.setWidth 32 ≠ 2#32 → exec .enclu s = .refused .otherLeaf

/-- 30_encoding R92 (92 D5): in 64-bit mode RAX[63:32] has no effect at all, on the leaf or on the outcome. -/
def Obligations.UpperRaxIsIgnored : Prop :=
  ∀ (s : State) (a b : Word), mode64 s = true → a.setWidth 32 = b.setWidth 32 →
    exec .enclu { s with gpr := { s.gpr with rax := a } } = exec .enclu { s with gpr := { s.gpr with rax := b } }

/-! ### Addresses -/

/-- 41 R141, R167, R169, R171, R175, R176, R185 (92 D8): the address temporaries are the sums of the spec in the natural
numbers, modulo 2^W; TMP_GPR is the one number below 2^W that with GPRSGX_SIZE added gives the end of the frame. -/
def Obligations.TemporariesAreModularSums : Prop :=
  ∀ (c : Config) (m : Bool) (L : Launch) (n : Nat),
    let W : Nat := if m then 2 ^ 64 else 2 ^ 32
    let base := L.secs.baseaddr.toNat
    let frame := 4096 * L.secs.ssaframesize.toNat
    (tmpSsa m L).toNat = (L.tcs.ossa.toNat + base + frame * L.tcs.cssa.toNat) % W ∧
    (tmpSsaPage m L n).toNat = ((tmpSsa m L).toNat + 4096 * n) % W ∧
    (tmpGpr c m L).toNat < W ∧ ((tmpGpr c m L).toNat + c.gprsgxSize) % W = ((tmpSsa m L).toNat + frame) % W ∧
    (tmpTarget m L).toNat = (L.tcs.oentry.toNat + base) % W ∧
    (tmpFsBase m L).toNat = (L.tcs.ofsbase.toNat + base) % W ∧
    (tmpGsBase m L).toNat = (L.tcs.ogsbase.toNat + base) % W ∧
    (tmpFsLimit L).toNat = (L.tcs.ofsbase.toNat + base + L.tcs.fslimit.toNat) % 2 ^ 32 ∧
    (tmpGsLimit L).toNat = (L.tcs.ogsbase.toNat + base + L.tcs.gslimit.toNat) % 2 ^ 32 ∧
    (tmpCetSaveArea m L).toNat = (L.tcs.ocetssa.toNat + base + 16 * L.tcs.cssa.toNat) % W ∧
    (tmpCetSavePage m L).toNat + (tmpCetSaveArea m L).toNat % 4096 = (tmpCetSaveArea m L).toNat

/-- 00_scope R14 (92 D31): an address is canonical exactly when its bits 63 down to LA_WIDTH - 1 are all equal. -/
def Obligations.CanonicalMeansTopBitsAgree : Prop :=
  ∀ (c : Config) (a : Word), isCanonical c a = true ↔
    ∀ i : Nat, c.laWidth.bits - 1 ≤ i → i < 64 → a.getLsbD i = a.getLsbD 63

/-! ### Where EENTER faults -/

/-- 41 R145: a TCS address that is not 4-KByte aligned raises #GP(0). -/
def Obligations.MisalignedTcsRaisesGp : Prop :=
  ∀ s : State, encluAvailable s = true → leafNumber s = eenterLeaf → (tcsLa s).toNat % 4096 ≠ 0 →
    exec .enclu s = .fault .gp0

/-- 41 R140, R143, R144, R147: in enclave mode, or with an operand EENTER does not accept (segments that are not flat in
32-bit mode, a misaligned TCS, a TCS beyond DS.limit), it raises #GP(0). The place of R140 and the check R147 are
decisions of the spec (92 D4, D7). -/
def Obligations.EnclaveModeOrBadOperandRaisesGp : Prop :=
  ∀ s : State, encluAvailable s = true → leafNumber s = eenterLeaf →
    (s.sgx.enclaveMode = true ∨ ¬ OperandOk s) → exec .enclu s = .fault .gp0

/-- 41 R148 (92 D6; log 11): a TCS address that is not canonical faults, with #GP(0) or with #PF at that address; which
of the two is free. -/
def Obligations.NonCanonicalTcsFaults : Prop :=
  ∀ s : State, Callable s → OperandOk s → mode64 s = true → isCanonical s.cfg s.gpr.rbx = false →
    exec .enclu s = .fault .gp0 ∨ ∃ code, exec .enclu s = .fault (.pf s.gpr.rbx code)

/-- 41 R146: a TCS address that does not translate raises the paging oracle's own page fault, and one that translates
outside the EPC raises a page fault, both at the TCS address. -/
def Obligations.UnresolvedTcsPageFaults : Prop :=
  ∀ s : State, Callable s → OperandOk s → OperandCanonical s →
    (∀ code, translate s.paging (tcsLa s) .readWrite = .error code → exec .enclu s = .fault (.pf (tcsLa s) code)) ∧
    (∀ pa, translate s.paging (tcsLa s) .readWrite = .ok pa → isEpc s.cfg pa = false →
      ∃ code, exec .enclu s = .fault (.pf (tcsLa s) code))

/-- 41 R149: in 64-bit mode an AEP that is not canonical raises #GP(0), once the TCS resolves. -/
def Obligations.NonCanonicalAepRaisesGp : Prop :=
  ∀ (s : State) (tcsPa : Word), Callable s → OperandOk s → OperandCanonical s → TcsResolves s tcsPa →
    mode64 s = true → isCanonical s.cfg s.gpr.rcx = false → exec .enclu s = .fault .gp0

/-- 41 R151, R152: a TCS that another SGX instruction holds, or a SECS in use, raises #GP(0), once the TCS resolves. The
fault of R152 is a decision of the spec (92 D15); the two draws are fields of the state (log 12). -/
def Obligations.LockConflictRaisesGp : Prop :=
  ∀ (s : State) (tcsPa : Word), Callable s → OperandOk s → OperandCanonical s → TcsResolves s tcsPa →
    (s.draws.tcsLockConflict = true ∨ s.draws.secsInUse = true) → exec .enclu s = .fault .gp0

/-- 41 R153 to R156: an EPCM entry that is not valid, blocked, not a TCS page at this address, pending or modified raises
a page fault at the TCS address. -/
def Obligations.BadTcsPageFaults : Prop :=
  ∀ (s : State) (tcsPa : Word), CallerOk s tcsPa →
    ((epcmAt s.epc tcsPa).valid = false ∨ (epcmAt s.epc tcsPa).blocked = true ∨
      (epcmAt s.epc tcsPa).enclaveAddress ≠ tcsLa s ∨ (epcmAt s.epc tcsPa).pt ≠ .tcs ∨
      (epcmAt s.epc tcsPa).pending = true ∨ (epcmAt s.epc tcsPa).modified = true) →
    ∃ code, exec .enclu s = .fault (.pf (tcsLa s) code)

/-- 41 R141 (92 D8): in 32-bit mode a 64-bit field with a non-zero upper half is refused by name. That this comes right
after the TCS page is verified is the model's choice (log 20). -/
def Obligations.WideFieldsAreRefused : Prop :=
  ∀ (s : State) (tcsPa : Word), CallerOk s tcsPa → TcsPageOk s tcsPa → ¬ NarrowFields s (launchAt s tcsPa) →
    exec .enclu s = .refused .wideFieldIn32BitMode

/-- 41 R157, R158, R160 to R166: a TCS, a SECS or control registers that do not agree raise #GP(0). That
"initialized" is a bit of the SECS and that XFRM is tested without XSAVE are decisions of the spec (92 D28, D25). -/
def Obligations.BadControlsRaiseGp : Prop :=
  ∀ (s : State) (tcsPa : Word), CallerOk s tcsPa → TcsPageOk s tcsPa → NarrowFields s (launchAt s tcsPa) →
    ¬ ControlsOk s (launchAt s tcsPa) → exec .enclu s = .fault .gp0

/-- 41 R157, R158: an SSA, FS or GS offset that is not 4-KByte aligned raises #GP(0), once the TCS page is verified. -/
def Obligations.MisalignedOffsetsRaiseGp : Prop :=
  ∀ (s : State) (tcsPa : Word), CallerOk s tcsPa → TcsPageOk s tcsPa → NarrowFields s (launchAt s tcsPa) →
    ((tcsAt s.epc tcsPa).ossa.toNat % 4096 ≠ 0 ∨ (tcsAt s.epc tcsPa).ofsbase.toNat % 4096 ≠ 0 ∨
      (tcsAt s.epc tcsPa).ogsbase.toNat % 4096 ≠ 0) →
    exec .enclu s = .fault .gp0

/-- 41 R162, R163, R165: an operating mode that is not the enclave's, CR4.OSFXSR = 0, and on an opt-out entry an
AEXNOTIFY that differs from the enclave's, each raise #GP(0), once the TCS page is verified. -/
def Obligations.ControlMismatchRaisesGp : Prop :=
  ∀ (s : State) (tcsPa : Word), CallerOk s tcsPa → TcsPageOk s tcsPa → NarrowFields s (launchAt s tcsPa) →
    ((launchAt s tcsPa).secs.mode64bit ≠ mode64 s ∨ cr4Osfxsr s.sys.cr4 = false ∨
      (flagsDbgOptIn (tcsAt s.epc tcsPa).flags = false ∧
        flagsAexNotify (tcsAt s.epc tcsPa).flags ≠ (launchAt s tcsPa).secs.aexnotify)) →
    exec .enclu s = .fault .gp0

/-- 41 R160: a reserved bit of `TCS.FLAGS` raises #GP(0) in both modes, once the TCS page is verified. -/
def Obligations.ReservedTcsFlagsRaiseGp : Prop :=
  ∀ (s : State) (tcsPa : Word), CallerOk s tcsPa → TcsPageOk s tcsPa → NarrowFields s (launchAt s tcsPa) →
    (tcsAt s.epc tcsPa).flags &&& 0xFFFFFFFFFFFFFFFC#64 ≠ 0 → exec .enclu s = .fault .gp0

/-- 41 R166: with no free SSA frame, `CSSA ≥ NSSA`, EENTER raises #GP(0), before any page of the frame is looked at
(60_exceptions R264). -/
def Obligations.NoFreeSsaFrameRaisesGp : Prop :=
  ∀ (s : State) (tcsPa : Word), CallerOk s tcsPa → TcsPageOk s tcsPa → NarrowFields s (launchAt s tcsPa) →
    (tcsAt s.epc tcsPa).nssa.toNat ≤ (tcsAt s.epc tcsPa).cssa.toNat → exec .enclu s = .fault .gp0

/-- 41 R169, R170 (92 D9, D10): the lowest page of the XSAVE region that fails its tests raises a page fault at its own
address, with the oracle's code where it does not translate. -/
def Obligations.LowestBadSsaPageFaults : Prop :=
  ∀ (s : State) (tcsPa : Word) (k : Nat), CallerOk s tcsPa → TcsPageOk s tcsPa →
    NarrowFields s (launchAt s tcsPa) → ControlsOk s (launchAt s tcsPa) →
    k < ssaPageCount s.cfg (launchAt s tcsPa) → (∀ n, n < k → SsaPageOk s (launchAt s tcsPa) n) →
    ¬ SsaPageOk s (launchAt s tcsPa) k →
    (∃ code, exec .enclu s = .fault (.pf (tmpSsaPage (mode64 s) (launchAt s tcsPa) k) code)) ∧
    (∀ code, translate s.paging (tmpSsaPage (mode64 s) (launchAt s tcsPa) k) .readWrite = .error code →
      exec .enclu s = .fault (.pf (tmpSsaPage (mode64 s) (launchAt s tcsPa) k) code))

/-- 41 R171, R172, 20_memory R63, 60_exceptions R262 (92 D10): a GPR page that fails its tests raises a page fault at the
address of the GPR area, which is not page aligned; where it does not translate, with the oracle's own code. -/
def Obligations.BadGprPageFaults : Prop :=
  ∀ (s : State) (tcsPa : Word), CallerOk s tcsPa → TcsPageOk s tcsPa → NarrowFields s (launchAt s tcsPa) →
    ControlsOk s (launchAt s tcsPa) → SsaFrameOk s (launchAt s tcsPa) →
    (∀ pa, ¬ GprPageOk s (launchAt s tcsPa) pa) →
    (∃ code, exec .enclu s = .fault (.pf (tmpGpr s.cfg (mode64 s) (launchAt s tcsPa)) code)) ∧
    (∀ code, translate s.paging (tmpGpr s.cfg (mode64 s) (launchAt s tcsPa)) .readWrite = .error code →
      exec .enclu s = .fault (.pf (tmpGpr s.cfg (mode64 s) (launchAt s tcsPa)) code))

/-- 41 R172, R173: a GPR area that crosses a page is refused by name, and one in a single page but not inside DS in 32-bit
mode raises #GP(0). That the page is tested before the crossing is the model's choice (log 21). -/
def Obligations.BadGprAreaStops : Prop :=
  ∀ (s : State) (tcsPa gprPa : Word), CallerOk s tcsPa → TcsPageOk s tcsPa → NarrowFields s (launchAt s tcsPa) →
    ControlsOk s (launchAt s tcsPa) → SsaFrameOk s (launchAt s tcsPa) → GprPageOk s (launchAt s tcsPa) gprPa →
    (¬ GprInOnePage s (launchAt s tcsPa) → exec .enclu s = .refused .gprAreaCrossesPage) ∧
    (GprInOnePage s (launchAt s tcsPa) → ¬ GprInDs s (launchAt s tcsPa) → exec .enclu s = .fault .gp0)

/-- 41 R175 to R183: a bad entry point, FS or GS, an active TCS, or a CET request that cannot be met raises #GP(0), once
the SSA frame is verified. The readings of "DS.limit < 4GB" and of the CET block are the spec's decisions (92 D12, D27,
D33). -/
def Obligations.BadEntryPointRaisesGp : Prop :=
  ∀ (s : State) (tcsPa gprPa : Word), CallerOk s tcsPa → TcsPageOk s tcsPa → NarrowFields s (launchAt s tcsPa) →
    ControlsOk s (launchAt s tcsPa) → SsaFrameOk s (launchAt s tcsPa) → GprPageOk s (launchAt s tcsPa) gprPa →
    GprInOnePage s (launchAt s tcsPa) → GprInDs s (launchAt s tcsPa) → ¬ EntryPointOk s (launchAt s tcsPa) →
    exec .enclu s = .fault .gp0

/-- 41 R175, R179, 40 R111: a target above CS.limit in 32-bit mode, or in 64-bit mode a target or an FS or GS base that
is not canonical, raises #GP(0), once the SSA frame is verified. -/
def Obligations.BadTargetRaisesGp : Prop :=
  ∀ (s : State) (tcsPa gprPa : Word), CallerOk s tcsPa → TcsPageOk s tcsPa → NarrowFields s (launchAt s tcsPa) →
    ControlsOk s (launchAt s tcsPa) → SsaFrameOk s (launchAt s tcsPa) → GprPageOk s (launchAt s tcsPa) gprPa →
    GprInOnePage s (launchAt s tcsPa) → GprInDs s (launchAt s tcsPa) →
    ((mode64 s = false ∧ s.seg.cs.limit.toNat < (tmpTarget false (launchAt s tcsPa)).toNat) ∨
      (mode64 s = true ∧ (isCanonical s.cfg (tmpTarget true (launchAt s tcsPa)) = false ∨
        isCanonical s.cfg (tmpFsBase true (launchAt s tcsPa)) = false ∨
        isCanonical s.cfg (tmpGsBase true (launchAt s tcsPa)) = false))) →
    exec .enclu s = .fault .gp0

/-- 41 R180: an ACTIVE TCS raises #GP(0), once the SSA frame is verified. -/
def Obligations.ActiveTcsRaisesGp : Prop :=
  ∀ (s : State) (tcsPa gprPa : Word), CallerOk s tcsPa → TcsPageOk s tcsPa → NarrowFields s (launchAt s tcsPa) →
    ControlsOk s (launchAt s tcsPa) → SsaFrameOk s (launchAt s tcsPa) → GprPageOk s (launchAt s tcsPa) gprPa →
    GprInOnePage s (launchAt s tcsPa) → GprInDs s (launchAt s tcsPa) → (tcsAt s.epc tcsPa).state = .active →
    exec .enclu s = .fault .gp0

/-- 41 R185, 20_memory R63, 60_exceptions R262: a CET state save page that fails its tests raises a page fault at that
page; where it does not translate, with the oracle's own code. -/
def Obligations.BadCetSavePageFaults : Prop :=
  ∀ (s : State) (tcsPa gprPa : Word), CallerOk s tcsPa → TcsPageOk s tcsPa → NarrowFields s (launchAt s tcsPa) →
    ControlsOk s (launchAt s tcsPa) → SsaFrameOk s (launchAt s tcsPa) → GprPageOk s (launchAt s tcsPa) gprPa →
    GprInOnePage s (launchAt s tcsPa) → GprInDs s (launchAt s tcsPa) → EntryPointOk s (launchAt s tcsPa) →
    ¬ CetSaveOk s (launchAt s tcsPa) →
    (∃ code, exec .enclu s = .fault (.pf (tmpCetSavePage (mode64 s) (launchAt s tcsPa)) code)) ∧
    (∀ code, translate s.paging (tmpCetSavePage (mode64 s) (launchAt s tcsPa)) .readWrite = .error code →
      exec .enclu s = .fault (.pf (tmpCetSavePage (mode64 s) (launchAt s tcsPa)) code))

/-- 60_exceptions R253: the address of a page fault is that of the TCS, of a page of the XSAVE region, of the GPR area or
of the CET save page. -/
def Obligations.PageFaultAddresses : Prop :=
  ∀ (s : State) (a : Word) (code : Dword), exec .enclu s = .fault (.pf a code) →
    a = tcsLa s ∨ ∃ tcsPa, translate s.paging (tcsLa s) .readWrite = .ok tcsPa ∧
      ((∃ n, n < ssaPageCount s.cfg (launchAt s tcsPa) ∧ a = tmpSsaPage (mode64 s) (launchAt s tcsPa) n) ∨
        a = tmpGpr s.cfg (mode64 s) (launchAt s tcsPa) ∨
        (cetOn s.cfg (launchAt s tcsPa) = true ∧ a = tmpCetSavePage (mode64 s) (launchAt s tcsPa)))

/-- 41 R187, 30_encoding R98: ENCLU refuses a launch only as another leaf, for a wide field in 32-bit mode, or for a GPR
area that crosses a page. -/
def Obligations.EncluRefusesOnlyByTheseNames : Prop :=
  ∀ (s : State) (r : Refusal), exec .enclu s = .refused r →
    (r = .otherLeaf ∧ leafNumber s ≠ eenterLeaf) ∨
    (∃ tcsPa, CallerOk s tcsPa ∧ TcsPageOk s tcsPa ∧
      ((r = .wideFieldIn32BitMode ∧ mode64 s = false ∧ ¬ NarrowFields s (launchAt s tcsPa)) ∨
        (r = .gprAreaCrossesPage ∧ ¬ GprInOnePage s (launchAt s tcsPa))))

/-! ### Where EENTER enters -/

/-- 41 R187, 70_reset R293 to R295: EENTER enters exactly when every condition holds. -/
def Obligations.EntersExactlyWhenReady : Prop :=
  ∀ s : State, (∃ t, exec .enclu s = .next t) ↔ ∃ tcsPa gprPa, EntryReady s tcsPa gprPa

/-- 40 R110, 42 R201, R210: after an entry the processor is in enclave mode at EnclaveBase + TCS.OENTRY, modulo 2^W. -/
def Obligations.EntryArrivesAtTheEntryPoint : Prop :=
  ∀ (s : State) (tcsPa gprPa : Word), EntryReady s tcsPa gprPa →
    ∃ t, exec .enclu s = .next t ∧ t.sgx.enclaveMode = true ∧ mode64 t = mode64 s ∧
      ip t = atWidth (mode64 s) ((launchAt s tcsPa).secs.baseaddr + (launchAt s tcsPa).tcs.oentry)

/-- 42 R209, R211, 10_state R22, R51 (92 D19): RAX receives CSSA and RCX the following IP, `ENCLU_LEN` bytes on, at the
width of the mode; in 32-bit mode their upper halves are unchanged; every other general register is unchanged. -/
def Obligations.EntryWritesRaxAndRcx : Prop :=
  ∀ (s : State) (tcsPa gprPa : Word), EntryReady s tcsPa gprPa →
    ∃ t, exec .enclu s = .next t ∧
      (∀ r, r ≠ .rax → r ≠ .rcx → gprGet t.gpr r = gprGet s.gpr r) ∧
      (mode64 s = true → t.gpr.rax = (tcsAt s.epc tcsPa).cssa.setWidth 64 ∧
        t.gpr.rcx = s.rip + BitVec.ofNat 64 s.cfg.encluLen) ∧
      (mode64 s = false → t.gpr.rax = s.gpr.rax.extractLsb' 32 32 ++ (tcsAt s.epc tcsPa).cssa ∧
        t.gpr.rcx = s.gpr.rcx.extractLsb' 32 32 ++ (s.rip.setWidth 32 + BitVec.ofNat 32 s.cfg.encluLen))

/-- 40 R123: TF is cleared on an opt-out entry and unchanged on an opt-in entry; no other flag changes. -/
def Obligations.EntryClearsTfOnlyWhenOptOut : Prop :=
  ∀ (s : State) (tcsPa gprPa : Word), EntryReady s tcsPa gprPa →
    ∃ t, exec .enclu s = .next t ∧
      (EntersOptIn s tcsPa → t.rflags = s.rflags) ∧
      (¬ EntersOptIn s tcsPa → rflagsTf t.rflags = false ∧
        ∀ i, i ≠ tfBit → t.rflags.getLsbD i = s.rflags.getLsbD i)

/-- 42 R206, R207: the whole of the old FS and GS, hidden portions included, is saved. -/
def Obligations.EntrySavesFsAndGs : Prop :=
  ∀ (s : State) (tcsPa gprPa : Word), EntryReady s tcsPa gprPa →
    ∃ t, exec .enclu s = .next t ∧ t.sgx.saveFs = s.seg.fs ∧ t.sgx.saveGs = s.seg.gs

/-- 42 R213, R214 (92 D13, D14): the new FS and GS, field by field; the base at the width of the mode; CS, SS, DS and ES
are unchanged. -/
def Obligations.EntryBuildsFsAndGs : Prop :=
  ∀ (s : State) (tcsPa gprPa : Word), EntryReady s tcsPa gprPa →
    ∃ t, exec .enclu s = .next t ∧
      t.seg.cs = s.seg.cs ∧ t.seg.ss = s.seg.ss ∧ t.seg.ds = s.seg.ds ∧ t.seg.es = s.seg.es ∧
      (∀ f ∈ [t.seg.fs, t.seg.gs],
        f.selector = 0x000B ∧ f.ar.type = (if s.seg.ds.ar.type.getLsbD 1 then 0b0011#4 else 0b0001#4) ∧
        f.ar.s = true ∧ f.ar.dpl = s.seg.ds.ar.dpl ∧ f.ar.g = true ∧ f.ar.b = true ∧ f.ar.p = true ∧
        f.ar.avl = s.seg.ds.ar.avl ∧ f.ar.l = s.seg.ds.ar.l ∧ f.ar.unusable = false) ∧
      segBase (mode64 s) t.seg.fs =
        atWidth (mode64 s) ((tcsAt s.epc tcsPa).ofsbase + (launchAt s tcsPa).secs.baseaddr) ∧
      segBase (mode64 s) t.seg.gs =
        atWidth (mode64 s) ((tcsAt s.epc tcsPa).ogsbase + (launchAt s tcsPa).secs.baseaddr) ∧
      t.seg.fs.limit = (tcsAt s.epc tcsPa).fslimit ∧ t.seg.gs.limit = (tcsAt s.epc tcsPa).gslimit

/-- 42 R208, 40 R118: with CR4.OSXSAVE, XCR0 is saved and replaced by XFRM, a subset of the old XCR0; without it neither
register changes. -/
def Obligations.EntrySwapsXcr0 : Prop :=
  ∀ (s : State) (tcsPa gprPa : Word), EntryReady s tcsPa gprPa →
    ∃ t, exec .enclu s = .next t ∧
      (cr4Osxsave s.sys.cr4 = true → t.sgx.saveXcr0 = s.sys.xcr0 ∧
        t.sys.xcr0 = (launchAt s tcsPa).secs.xfrm ∧ t.sys.xcr0 &&& s.sys.xcr0 = t.sys.xcr0) ∧
      (cr4Osxsave s.sys.cr4 = false → t.sgx.saveXcr0 = s.sgx.saveXcr0 ∧ t.sys.xcr0 = s.sys.xcr0)

/-- 41 R181, R184, R186 and 42 R223: the CET state after an entry. -/
def Obligations.EntrySwapsCetState : Prop :=
  ∀ (s : State) (tcsPa gprPa : Word), EntryReady s tcsPa gprPa →
    ∃ t, exec .enclu s = .next t ∧
      let L := launchAt s tcsPa
      let a : Word := L.secs.cetAttributes.setWidth 64
      let on := s.cfg.sgxCet && (cetShStkEn a || cetEndbrEn a)
      let cet : Word := if on then
          (if cetLegIwEn a && cetEndbrEn a then a + L.secs.baseaddr + L.secs.cetLegBitmapOffset else a) else 0
      let ssp : Word := if on && cetShStkEn cet then L.tcs.prevssp else 0
      ((s.cfg.cpuCetIbt = true ∨ s.cfg.cpuCetSs = true) → t.sgx.saveUCet = s.sys.uCet ∧ t.sys.uCet = cet) ∧
      (¬ (s.cfg.cpuCetIbt = true ∨ s.cfg.cpuCetSs = true) →
        t.sgx.saveUCet = s.sgx.saveUCet ∧ t.sys.uCet = s.sys.uCet) ∧
      (s.cfg.cpuCetSs = true → t.sgx.saveSsp = s.sys.ssp ∧ t.sys.ssp = ssp) ∧
      (s.cfg.cpuCetSs = false → t.sgx.saveSsp = s.sgx.saveSsp ∧ t.sys.ssp = s.sys.ssp)

/-- 42 R202, R203: the hidden registers that name the enclave and the thread. -/
def Obligations.EntryNamesTheEnclave : Prop :=
  ∀ (s : State) (tcsPa gprPa : Word), EntryReady s tcsPa gprPa →
    ∃ t, exec .enclu s = .next t ∧ t.sgx.activeSecs = (epcmAt s.epc tcsPa).enclaveSecs ∧
      t.sgx.elrange = { base := (launchAt s tcsPa).secs.baseaddr, size := (launchAt s tcsPa).secs.size } ∧
      t.sgx.tcsPa = tcsPa ∧ t.sgx.tcsLa = reg s .rbx

/-- 41 R169, R174, R185 at the commit point (92 D29; log 33): the physical addresses that an entry caches. An index of
CR_XSAVE_PAGE_n that the loop does not reach, and CR_CET_SAVE_AREA_PA without CET, keep what they held. -/
def Obligations.EntryCachesPhysicalAddresses : Prop :=
  ∀ (s : State) (tcsPa gprPa : Word), EntryReady s tcsPa gprPa →
    ∃ t, exec .enclu s = .next t ∧ t.sgx.gprPa = gprPa ∧
      (∀ n, n < ssaPageCount s.cfg (launchAt s tcsPa) → 
        translate s.paging (tmpSsaPage (mode64 s) (launchAt s tcsPa) n) .readWrite = .ok (xsavePage t.sgx n)) ∧
      (∀ n, ssaPageCount s.cfg (launchAt s tcsPa) ≤ n → xsavePage t.sgx n = xsavePage s.sgx n) ∧
      (cetOn s.cfg (launchAt s tcsPa) = true → ∃ pa,
        translate s.paging (tmpCetSavePage (mode64 s) (launchAt s tcsPa)) .readWrite = .ok pa ∧
        t.sgx.cetSaveAreaPa = pa + (tmpCetSaveArea (mode64 s) (launchAt s tcsPa) &&& 0xFFF)) ∧
      (cetOn s.cfg (launchAt s tcsPa) = false → t.sgx.cetSaveAreaPa = s.sgx.cetSaveAreaPa)

/-- 42 R204, R205 (92 D11, D17, D19): the TCS is marked ACTIVE and receives the AEP, of which the low half alone is known
in 32-bit mode; every other field of it, and every other TCS, is unchanged. -/
def Obligations.EntryMarksTheTcs : Prop :=
  ∀ (s : State) (tcsPa gprPa : Word), EntryReady s tcsPa gprPa →
    ∃ t, exec .enclu s = .next t ∧
      (∃ aep : Word, tcsAt t.epc tcsPa = { tcsAt s.epc tcsPa with state := .active, aep := aep } ∧
        atWidth (mode64 s) aep = reg s .rcx) ∧
      (∀ pa, pageNumber pa ≠ pageNumber tcsPa → tcsAt t.epc pa = tcsAt s.epc pa)

/-- 42 R212, 20_memory R68 (92 D1, D18, D19): RSP and RBP are stored little-endian in the GPR area; in 32-bit mode the
low four bytes of each slot are known. Every byte of memory outside the two slots reads as before. -/
def Obligations.EntryStoresRspAndRbp : Prop :=
  ∀ (s : State) (tcsPa gprPa : Word), EntryReady s tcsPa gprPa → s.cfg.gprAreaOk = true →
    ∃ t, exec .enclu s = .next t ∧
      (∀ i, i < (if mode64 s = true then 8 else 4) →
        memReadByte t.mem (gprPa + BitVec.ofNat 64 (s.cfg.gprOffUrsp + i)) =
          some (s.gpr.rsp.extractLsb' (8 * i) 8) ∧
        memReadByte t.mem (gprPa + BitVec.ofNat 64 (s.cfg.gprOffUrbp + i)) =
          some (s.gpr.rbp.extractLsb' (8 * i) 8)) ∧
      (∀ a : Word,
        (∀ i, i < 8 → a ≠ gprPa + BitVec.ofNat 64 (s.cfg.gprOffUrsp + i) ∧
          a ≠ gprPa + BitVec.ofNat 64 (s.cfg.gprOffUrbp + i)) →
        memReadByte t.mem a = memReadByte s.mem a)

/-- 60_exceptions R273: a breakpoint overlaps ELRANGE exactly when some byte that it watches lies in the range. Both are
ranges of naturals that do not wrap, which is the model's choice (log 27). -/
def Obligations.OverlapMeansAByteInBoth : Prop :=
  ∀ (r : ElRange) (b : Breakpoint), overlapsElrange r b = true ↔
    ∃ x : Nat, (b.addr.toNat ≤ x ∧ x < b.addr.toNat + b.length) ∧
      (r.base.toNat ≤ x ∧ x < r.base.toNat + r.size.toNat)

/-- 42 R215 to R217 (92 D26): an opt-out entry suppresses every code breakpoint and the data breakpoints that overlap
ELRANGE, saves TF, suppresses the monitor trap flag and drops what was pending. -/
def Obligations.OptOutEntryHidesFromDebug : Prop :=
  ∀ (s : State) (tcsPa gprPa : Word), EntryReady s tcsPa gprPa → ¬ EntersOptIn s tcsPa →
    ∃ t, exec .enclu s = .next t ∧ t.sgx.dbgOptIn = false ∧ t.sgx.saveTf = rflagsTf s.rflags ∧
      t.dbg.pendingDb = false ∧ t.virt.pendingMtf = false ∧ t.virt.mtfSuppressed = true ∧
      t.dbg.breakpoints = s.dbg.breakpoints.map (fun b => { b with suppressed := b.suppressed ||
        (match b.kind with
          | .code => true
          | .data => overlapsElrange t.sgx.elrange b) })

/-- 42 R215, R218: an opt-in entry suppresses the code breakpoints outside ELRANGE and nothing else; it pends a
single-step #DB if TF is set and an MTF VM exit if the control is set, and leaves CR_SAVE_TF as it was. -/
def Obligations.OptInEntryStaysOpenToDebug : Prop :=
  ∀ (s : State) (tcsPa gprPa : Word), EntryReady s tcsPa gprPa → EntersOptIn s tcsPa →
    ∃ t, exec .enclu s = .next t ∧ t.sgx.dbgOptIn = true ∧ t.sgx.saveTf = s.sgx.saveTf ∧
      t.dbg.pendingDb = (s.dbg.pendingDb || rflagsTf s.rflags) ∧
      t.virt.pendingMtf = (s.virt.pendingMtf || s.virt.mtfControl) ∧
      t.virt.mtfSuppressed = s.virt.mtfSuppressed ∧
      t.dbg.breakpoints = s.dbg.breakpoints.map (fun b => { b with suppressed := b.suppressed ||
        (match b.kind with
          | .code => !(overlapsElrange t.sgx.elrange b)
          | .data => false) })

/-- 42 R219 to R222, 60_exceptions R274 (92 D30): performance monitoring after an entry. An opt-in entry changes
nothing of it, the counters included. On an opt-out entry FIXED_CTR1 and FIXED_CTR2 go on counting: free values, of which
nothing is stated (log 10). -/
def Obligations.EntrySuppressesPerformanceMonitoring : Prop :=
  ∀ (s : State) (tcsPa gprPa : Word), EntryReady s tcsPa gprPa →
    ∃ t, exec .enclu s = .next t ∧
      (EntersOptIn s tcsPa → t.perf = s.perf) ∧
      (¬ EntersOptIn s tcsPa → t.perf.suppressed = true ∧ t.perf.pebsSuppressed = true ∧
        (∀ i : Nat, i < 64 → t.perf.globalStatus.getLsbD i =
          (s.perf.globalStatus.getLsbD i ||
            (s.perf.active && (decide (i = s.cfg.pgsBitA.val) || decide (i = s.cfg.pgsBitB.val))))) ∧
        t.perf.siblings.length = s.perf.siblings.length ∧
        ∀ (k : Nat) (u v : Sibling), s.perf.siblings[k]? = some u → t.perf.siblings[k]? = some v →
          (CountMode.anyThread ∉ u.counters → v = u) ∧
          (CountMode.anyThread ∈ u.counters →
            v.counters = List.replicate u.counters.length .myThread ∧
            ∀ i : Nat, i < 64 →
              v.globalStatus.getLsbD i = (u.globalStatus.getLsbD i || decide (i = s.cfg.pgsBitA.val))))

/-- 10_state R51: what an entry leaves unchanged of the control registers, the configuration, the paging state, the EPCM,
the SECSs and the programming of breakpoints; and the linear context is emptied (42 R224). That it also leaves the monitor
trap flag control and whether performance monitoring is active is the model's choice (log 13). The draws of the
environment, tcsLockConflict and secsInUse, are drawn anew (log 12), and the statement says nothing of them. The other
statements say what an entry leaves of the registers they name. -/
def Obligations.EntryLeavesTheRestUnchanged : Prop :=
  ∀ (s : State) (tcsPa gprPa : Word), EntryReady s tcsPa gprPa →
    ∃ t, exec .enclu s = .next t ∧ t.cfg = s.cfg ∧
      t.sys = { s.sys with xcr0 := t.sys.xcr0, uCet := t.sys.uCet, ssp := t.sys.ssp } ∧
      t.paging = s.paging ∧ t.epc.epcm = s.epc.epcm ∧ t.epc.secs = s.epc.secs ∧
      t.virt.mtfControl = s.virt.mtfControl ∧ t.perf.active = s.perf.active ∧
      t.dbg.breakpoints.map (fun b => (b.kind, b.addr, b.length)) =
        s.dbg.breakpoints.map (fun b => (b.kind, b.addr, b.length)) ∧
      t.linearContext = []

/-! ### The whole machine -/

/-- 20_memory R77 (92 D11): after an entry, no logical processor that sees the same EPC and resolves its own RBX to the
same TCS can enter. -/
def Obligations.AtMostOneEntryPerTcs : Prop :=
  ∀ (s t u : State) (pa : Word), exec .enclu s = .next t → u.epc = t.epc →
    translate u.paging (tcsLa u) .readWrite = .ok pa → pageNumber pa = pageNumber t.sgx.tcsPa →
    ∀ v, exec .enclu u ≠ .next v

/-- 60_exceptions R270, 41 R140: a step that goes on starts outside enclave mode and ends inside it, in the same
operating mode; no step leaves enclave mode. -/
def Obligations.StepsOnlyEnterEnclaveMode : Prop :=
  ∀ s t : State, step s = .next t → s.sgx.enclaveMode = false ∧ t.sgx.enclaveMode = true ∧ mode64 t = mode64 s

/-- 10_state R22 (92 D19): in 32-bit mode nothing depends on the upper halves of the general registers. -/
def Obligations.UpperHalvesAreInvisibleIn32BitMode : Prop :=
  ∀ (s : State) (g : Gprs), mode64 s = false →
    (∀ r, (gprGet g r).setWidth 32 = (gprGet s.gpr r).setWidth 32) →
    SameLowHalves (exec .enclu s) (exec .enclu { s with gpr := g })

/-- The invariant holds of the machine right after reset (10_state R50; the reset values are the model's, log 4 to
log 6). -/
def Obligations.ResetMeetsTheInvariant : Prop := Inv State.reset

/-- Every step keeps the invariant: memory and the EPC stay in canonical form, and in enclave mode the hidden registers
describe an active thread of an initialised enclave (42 R225). -/
def Obligations.EveryStepKeepsTheInvariant : Prop :=
  ∀ s t : State, Inv s → step s = .next t → Inv t

/-- 10_state R50, 70_reset R291 (92 D24; log 4, log 6): reset leaves the processor outside enclave mode with no valid EPC
page, and ENCLU placed there is fetched, decoded and raises #UD. -/
def Obligations.ResetIsOutsideEveryEnclave : Prop :=
  State.reset.sgx.enclaveMode = false ∧ (∀ pa, (epcmAt State.reset.epc pa).valid = false) ∧
    step (State.reset.withFetchWord 24 0x0F01D7) = exec .enclu (State.reset.withFetchWord 24 0x0F01D7) ∧
    step (State.reset.withFetchWord 24 0x0F01D7) = .fault .ud

/-- 00_scope R12, 20_memory R68 (92 D1): an eight-byte store is read back byte by byte, the least significant first, and
leaves every other byte as it was. -/
def Obligations.StoreIsReadBackLittleEndian : Prop :=
  ∀ (m : List Host.Cell) (pa v : Word),
    (∀ i, i < 8 → memReadByte (physWrite8 m pa v) (pa + BitVec.ofNat 64 i) = some (v.extractLsb' (8 * i) 8)) ∧
    (∀ a : Word, (∀ i, i < 8 → a ≠ pa + BitVec.ofNat 64 i) → memReadByte (physWrite8 m pa v) a = memReadByte m a) ∧
    (Memory.wf m → Memory.wf (physWrite8 m pa v))
end

