-- ==== Sys2Proof/Laws/State.lean ====
section
/-! SUPPORT. The small lemmas of the state updates: one lemma per field per update, so that no later proof unfolds one. -/

namespace Sys2Proof.Laws

open Sys2Proof.Machine

variable (s : State) (e : Entry)

/-! ### The committed entry -/

@[simp] theorem commitEntry_cfg : (commitEntry s e).cfg = s.cfg := rfl
@[simp] theorem commitEntry_gpr : (commitEntry s e).gpr = commitGprs s e := rfl
@[simp] theorem commitEntry_rip : (commitEntry s e).rip = commitRip s e := rfl
@[simp] theorem commitEntry_rflags : (commitEntry s e).rflags = commitRflags s e := rfl
@[simp] theorem commitEntry_seg : (commitEntry s e).seg = commitSegs s e := rfl
@[simp] theorem commitEntry_sys : (commitEntry s e).sys = commitSys s e := rfl
@[simp] theorem commitEntry_perf : (commitEntry s e).perf = commitPerf s e := rfl
@[simp] theorem commitEntry_dbg : (commitEntry s e).dbg = commitDbg s e := rfl
@[simp] theorem commitEntry_virt : (commitEntry s e).virt = commitVirt s e := rfl
@[simp] theorem commitEntry_sgx : (commitEntry s e).sgx = commitSgx s e := rfl
@[simp] theorem commitEntry_linearContext : (commitEntry s e).linearContext = [] := rfl
@[simp] theorem commitEntry_mem : (commitEntry s e).mem = commitMem s e := rfl
@[simp] theorem commitEntry_paging : (commitEntry s e).paging = s.paging := rfl
@[simp] theorem commitEntry_epc : (commitEntry s e).epc = putTcs s.epc e.launch.tcsPa (commitTcs s e) := rfl
@[simp] theorem commitEntry_draws : (commitEntry s e).draws = Config.nextDraws (s.freeCount + 8) := rfl
@[simp] theorem commitEntry_freeCount : (commitEntry s e).freeCount = s.freeCount + freeValuesPerEntry := rfl

@[simp] theorem commitSegs_cs : (commitSegs s e).cs = s.seg.cs := rfl
@[simp] theorem commitSegs_ss : (commitSegs s e).ss = s.seg.ss := rfl
@[simp] theorem commitSegs_ds : (commitSegs s e).ds = s.seg.ds := rfl
@[simp] theorem commitSegs_es : (commitSegs s e).es = s.seg.es := rfl

@[simp] theorem commitSegs_fs_selector : (commitSegs s e).fs.selector = 0x000B := rfl
@[simp] theorem commitSegs_fs_base : (commitSegs s e).fs.base =
    writeFreeUpper (mode64 s) (s.freeCount + 4) (tmpFsBase (mode64 s) e.launch) := rfl
@[simp] theorem commitSegs_fs_limit : (commitSegs s e).fs.limit = e.launch.tcs.fslimit := rfl
@[simp] theorem commitSegs_fs_ar : (commitSegs s e).fs.ar = enclaveRights s.seg.ds := rfl
@[simp] theorem commitSegs_gs_selector : (commitSegs s e).gs.selector = 0x000B := rfl
@[simp] theorem commitSegs_gs_base : (commitSegs s e).gs.base =
    writeFreeUpper (mode64 s) (s.freeCount + 5) (tmpGsBase (mode64 s) e.launch) := rfl
@[simp] theorem commitSegs_gs_limit : (commitSegs s e).gs.limit = e.launch.tcs.gslimit := rfl
@[simp] theorem commitSegs_gs_ar : (commitSegs s e).gs.ar = enclaveRights s.seg.ds := rfl

@[simp] theorem commitSys_cr0 : (commitSys s e).cr0 = s.sys.cr0 := rfl
@[simp] theorem commitSys_cr2 : (commitSys s e).cr2 = s.sys.cr2 := rfl
@[simp] theorem commitSys_cr3 : (commitSys s e).cr3 = s.sys.cr3 := rfl
@[simp] theorem commitSys_cr4 : (commitSys s e).cr4 = s.sys.cr4 := rfl
@[simp] theorem commitSys_efer : (commitSys s e).efer = s.sys.efer := rfl
@[simp] theorem commitSys_cpl : (commitSys s e).cpl = s.sys.cpl := rfl
@[simp] theorem commitSys_sgxEnabled : (commitSys s e).sgxEnabled = s.sys.sgxEnabled := rfl

@[simp] theorem commitSys_xcr0 :
    (commitSys s e).xcr0 = if cr4Osxsave s.sys.cr4 then e.launch.secs.xfrm else s.sys.xcr0 := rfl
@[simp] theorem commitSys_uCet :
    (commitSys s e).uCet = if cpuCet s.cfg then tmpUCet s.cfg e.launch else s.sys.uCet := rfl
@[simp] theorem commitSys_ssp :
    (commitSys s e).ssp = if s.cfg.cpuCetSs then tmpSsp s.cfg e.launch else s.sys.ssp := rfl

@[simp] theorem commitPerf_fixedCtr1 : (commitPerf s e).fixedCtr1 =
    if optIn e then s.perf.fixedCtr1 else Config.freeWord (s.freeCount + 6) := rfl
@[simp] theorem commitPerf_fixedCtr2 : (commitPerf s e).fixedCtr2 =
    if optIn e then s.perf.fixedCtr2 else Config.freeWord (s.freeCount + 7) := rfl
@[simp] theorem commitPerf_suppressed : (commitPerf s e).suppressed = (!(optIn e) || s.perf.suppressed) := rfl
@[simp] theorem commitPerf_pebsSuppressed : (commitPerf s e).pebsSuppressed = (!(optIn e) || s.perf.pebsSuppressed) := rfl
@[simp] theorem commitPerf_active : (commitPerf s e).active = s.perf.active := rfl
@[simp] theorem commitPerf_siblings : (commitPerf s e).siblings = if optIn e then s.perf.siblings else s.perf.siblings.map (demoteSibling s.cfg) := rfl
@[simp] theorem commitPerf_globalStatus : (commitPerf s e).globalStatus = if !(optIn e) && s.perf.active then
      setBit (setBit s.perf.globalStatus s.cfg.pgsBitA) s.cfg.pgsBitB else s.perf.globalStatus := rfl

/-- On an opt-in entry nothing of performance monitoring changes (60_exceptions R274). -/
theorem commitPerf_optIn {s : State} {e : Entry} (h : optIn e = true) : commitPerf s e = s.perf := by
  simp [commitPerf, h]

@[simp] theorem commitDbg_breakpoints : (commitDbg s e).breakpoints = s.dbg.breakpoints.map (commitBreakpoint (enclaveRange e) (optIn e)) := rfl
@[simp] theorem commitDbg_pendingDb : (commitDbg s e).pendingDb = (optIn e && (s.dbg.pendingDb || rflagsTf s.rflags)) := rfl

@[simp] theorem commitVirt_mtfControl : (commitVirt s e).mtfControl = s.virt.mtfControl := rfl
@[simp] theorem commitVirt_pendingMtf : (commitVirt s e).pendingMtf = (optIn e && (s.virt.pendingMtf || s.virt.mtfControl)) := rfl
@[simp] theorem commitVirt_mtfSuppressed : (commitVirt s e).mtfSuppressed = (!(optIn e) || s.virt.mtfSuppressed) := rfl

@[simp] theorem commitSgx_enclaveMode : (commitSgx s e).enclaveMode = true := rfl
@[simp] theorem commitSgx_activeSecs : (commitSgx s e).activeSecs = e.launch.tmpSecs := rfl
@[simp] theorem commitSgx_elrange : (commitSgx s e).elrange = enclaveRange e := rfl
@[simp] theorem commitSgx_tcsPa : (commitSgx s e).tcsPa = e.launch.tcsPa := rfl
@[simp] theorem commitSgx_tcsLa : (commitSgx s e).tcsLa = reg s .rbx := rfl
@[simp] theorem commitSgx_gprPa : (commitSgx s e).gprPa = e.gprPa := rfl
@[simp] theorem commitSgx_xsavePages : (commitSgx s e).xsavePages = putXsavePages s.sgx.xsavePages 0 e.xsavePages := rfl
@[simp] theorem commitSgx_cetSaveAreaPa : (commitSgx s e).cetSaveAreaPa = e.cetSaveAreaPa.getD s.sgx.cetSaveAreaPa := rfl
@[simp] theorem commitSgx_saveFs : (commitSgx s e).saveFs = s.seg.fs := rfl
@[simp] theorem commitSgx_saveGs : (commitSgx s e).saveGs = s.seg.gs := rfl
@[simp] theorem commitSgx_saveXcr0 : (commitSgx s e).saveXcr0 = if cr4Osxsave s.sys.cr4 then s.sys.xcr0 else s.sgx.saveXcr0 := rfl
@[simp] theorem commitSgx_dbgOptIn : (commitSgx s e).dbgOptIn = optIn e := rfl
@[simp] theorem commitSgx_saveTf : (commitSgx s e).saveTf = if optIn e then s.sgx.saveTf else rflagsTf s.rflags := rfl
@[simp] theorem commitSgx_saveUCet : (commitSgx s e).saveUCet = if cpuCet s.cfg then s.sys.uCet else s.sgx.saveUCet := rfl
@[simp] theorem commitSgx_saveSsp : (commitSgx s e).saveSsp = if s.cfg.cpuCetSs then s.sys.ssp else s.sgx.saveSsp := rfl

@[simp] theorem commitTcs_state : (commitTcs s e).state = .active := rfl
@[simp] theorem commitTcs_aep : (commitTcs s e).aep = writeFreeUpper (mode64 s) s.freeCount (reg s .rcx) := rfl
@[simp] theorem commitTcs_flags : (commitTcs s e).flags = e.launch.tcs.flags := rfl
@[simp] theorem commitTcs_ossa : (commitTcs s e).ossa = e.launch.tcs.ossa := rfl
@[simp] theorem commitTcs_cssa : (commitTcs s e).cssa = e.launch.tcs.cssa := rfl
@[simp] theorem commitTcs_nssa : (commitTcs s e).nssa = e.launch.tcs.nssa := rfl
@[simp] theorem commitTcs_oentry : (commitTcs s e).oentry = e.launch.tcs.oentry := rfl
@[simp] theorem commitTcs_ofsbase : (commitTcs s e).ofsbase = e.launch.tcs.ofsbase := rfl
@[simp] theorem commitTcs_ogsbase : (commitTcs s e).ogsbase = e.launch.tcs.ogsbase := rfl
@[simp] theorem commitTcs_fslimit : (commitTcs s e).fslimit = e.launch.tcs.fslimit := rfl
@[simp] theorem commitTcs_gslimit : (commitTcs s e).gslimit = e.launch.tcs.gslimit := rfl
@[simp] theorem commitTcs_ocetssa : (commitTcs s e).ocetssa = e.launch.tcs.ocetssa := rfl
@[simp] theorem commitTcs_prevssp : (commitTcs s e).prevssp = e.launch.tcs.prevssp := rfl

/-! ### A breakpoint, a launch, a TCS write, a byte stored for the fetch -/

@[simp] theorem commitBreakpoint_kind (r : ElRange) (o : Bool) (b : Breakpoint) : (commitBreakpoint r o b).kind = b.kind := rfl
@[simp] theorem commitBreakpoint_addr (r : ElRange) (o : Bool) (b : Breakpoint) : (commitBreakpoint r o b).addr = b.addr := rfl
@[simp] theorem commitBreakpoint_length (r : ElRange) (o : Bool) (b : Breakpoint) : (commitBreakpoint r o b).length = b.length := rfl
@[simp] theorem commitBreakpoint_suppressed (r : ElRange) (o : Bool) (b : Breakpoint) : (commitBreakpoint r o b).suppressed = (b.suppressed || suppresses r o b) := rfl

@[simp] theorem launchAt_tcsPa (pa : Word) : (launchAt s pa).tcsPa = pa := rfl
@[simp] theorem launchAt_tmpSecs (pa : Word) : (launchAt s pa).tmpSecs = (epcmAt s.epc pa).enclaveSecs := rfl
@[simp] theorem launchAt_tcs (pa : Word) : (launchAt s pa).tcs = tcsAt s.epc pa := rfl
@[simp] theorem launchAt_secs (pa : Word) : (launchAt s pa).secs = secsAt s.epc (epcmAt s.epc pa).enclaveSecs := rfl

@[simp] theorem putTcs_epcm (c : Epc) (pa : Word) (t : Tcs) : (putTcs c pa t).epcm = c.epcm := rfl
@[simp] theorem putTcs_secs (c : Epc) (pa : Word) (t : Tcs) : (putTcs c pa t).secs = c.secs := rfl
@[simp] theorem putTcs_tcs (c : Epc) (pa : Word) (t : Tcs) : (putTcs c pa t).tcs = keyedSet tcsUnlisted c.tcs (pageNumber pa) t := rfl

/-! ### General registers -/

@[simp] theorem gprGet_gprSet_self (g : Gprs) (r : Gpr) (v : Word) : gprGet (gprSet g r v) r = v := by
  cases r <;> rfl

theorem gprGet_gprSet_ne (g : Gprs) (v : Word) {r q : Gpr} (h : q ≠ r) :
    gprGet (gprSet g r v) q = gprGet g q := by
  cases r <;> cases q <;> first | rfl | exact absurd rfl h

/-- A register file is known by its sixteen registers. -/
theorem gprs_ext {g h : Gprs} (eq : ∀ r, gprGet g r = gprGet h r) : g = h := by
  cases g; cases h
  simp only [Gprs.mk.injEq]
  exact ⟨eq .rax, eq .rcx, eq .rdx, eq .rbx, eq .rsp, eq .rbp, eq .rsi, eq .rdi, eq .r8, eq .r9, eq .r10, eq .r11,
    eq .r12, eq .r13, eq .r14, eq .r15⟩

/-- An entry leaves every general register but RAX and RCX as it was. -/
theorem commitGprs_other {r : Gpr} (hrax : r ≠ .rax) (hrcx : r ≠ .rcx) :
    gprGet (commitGprs s e) r = gprGet s.gpr r := by
  unfold commitGprs gprWrite
  rw [gprGet_gprSet_ne _ _ hrax, gprGet_gprSet_ne _ _ hrcx]

theorem commitGprs_rax :
    gprGet (commitGprs s e) .rax = writeAtWidth (mode64 s) s.gpr.rax (e.launch.tcs.cssa.setWidth 64) := rfl

theorem commitGprs_rcx : gprGet (commitGprs s e) .rcx = writeAtWidth (mode64 s) s.gpr.rcx (nextIp s) := rfl

/-! ### Values at the width of the mode -/

theorem low_append (h l : Dword) : (h ++ l : Word).setWidth 32 = l := by
  ext i hi
  rw [BitVec.getElem_setWidth, BitVec.getLsbD_append]
  simp [hi]

theorem high_append (h l : Dword) : (h ++ l : Word).extractLsb' 32 32 = h := by
  ext i hi
  rw [BitVec.getElem_extractLsb', BitVec.getLsbD_append]
  simp [hi]

@[simp] theorem atWidth_true (v : Word) : atWidth true v = v := rfl

@[simp] theorem atWidth_false (v : Word) : atWidth false v = (v.setWidth 32).setWidth 64 := rfl

theorem atWidth_false_toNat (v : Word) : (atWidth false v).toNat = v.toNat % 2 ^ 32 := by
  simp only [atWidth_false, BitVec.toNat_setWidth]
  omega

@[simp] theorem writeAtWidth_true (old v : Word) : writeAtWidth true old v = v := rfl

@[simp] theorem writeAtWidth_low (m : Bool) (old v : Word) : (writeAtWidth m old v).setWidth 32 = v.setWidth 32 := by
  cases m
  · exact low_append _ _
  · rfl

/-- In 32-bit mode a register's upper half is not written (10_state R22). -/
@[simp] theorem writeAtWidth_high (old v : Word) :
    (writeAtWidth false old v).extractLsb' 32 32 = old.extractLsb' 32 32 := by
  exact high_append _ _

@[simp] theorem writeFreeUpper_true (n : Nat) (v : Word) : writeFreeUpper true n v = v := rfl

@[simp] theorem writeFreeUpper_low (m : Bool) (n : Nat) (v : Word) :
    (writeFreeUpper m n v).setWidth 32 = v.setWidth 32 := by
  cases m
  · exact low_append _ _
  · rfl

/-! ### Bits -/

@[simp] theorem rflagsTf_clearBit (w : Word) : rflagsTf (clearBit w tfBit) = false := by
  simp [rflagsTf, clearBit, bitMask, tfBit]

end Sys2Proof.Laws
end

