-- ==== Sys2Proof/Laws/Checks.lean ====
section
/-! SUPPORT. What each check can answer: a raise passes or raises, a sequence of checks passes when each does, and the
shared page check passes exactly on an enclave page. -/

namespace Sys2Proof.Laws

open Sys2Proof.Machine Sys2Proof.Safety

section Check
variable {α β : Type}

@[simp] theorem raiseIf_ok {c : Prop} [Decidable c] {st : Stop} {u : Unit} : raiseIf c st = .ok u ↔ ¬ c := by
  unfold raiseIf; split <;> simp_all

@[simp] theorem raiseIf_error {c : Prop} [Decidable c] {st e : Stop} : raiseIf c st = .error e ↔ c ∧ st = e := by
  unfold raiseIf; split <;> simp_all

/-- A sequence passes when its first part passes and its second does. -/
@[simp] theorem check_bind_ok {x : Check α} {f : α → Check β} {b : β} :
    (x >>= f) = .ok b ↔ ∃ a, x = .ok a ∧ f a = .ok b := by
  cases x <;> simp [bind, Except.bind]

/-- A sequence raises when its first part does, or passes it and its second does. -/
@[simp] theorem check_bind_error {x : Check α} {f : α → Check β} {e : Stop} :
    (x >>= f) = .error e ↔ x = .error e ∨ ∃ a, x = .ok a ∧ f a = .error e := by
  cases x <;> simp [bind, Except.bind]

@[simp] theorem check_pure_ok {a b : α} : (pure a : Check α) = .ok b ↔ a = b := by simp [pure, Except.pure]

@[simp] theorem check_pure_error {a : α} {e : Stop} : (pure a : Check α) = .error e ↔ False := by
  simp [pure, Except.pure]

@[simp] theorem check_map_ok {x : Check α} {f : α → β} {b : β} :
    (f <$> x) = .ok b ↔ ∃ a, x = .ok a ∧ f a = b := by
  cases x <;> simp [Functor.map, Except.map]

@[simp] theorem check_map_error {x : Check α} {f : α → β} {e : Stop} : (f <$> x) = .error e ↔ x = .error e := by
  cases x <;> simp [Functor.map, Except.map]

end Check

variable {s : State}

@[simp] theorem translateOrRaise_ok {la pa : Word} {a : Access} :
    translateOrRaise s la a = .ok pa ↔ translate s.paging la a = .ok pa := by
  unfold translateOrRaise; split <;> simp_all

@[simp] theorem translateOrRaise_error {la : Word} {a : Access} {e : Stop} :
    translateOrRaise s la a = .error e ↔ ∃ code, translate s.paging la a = .error code ∧ e = .fault (.pf la code) := by
  unfold translateOrRaise
  cases translate s.paging la a <;> simp [eq_comm]

/-- An address resolves in the EPC when it translates to an EPC page (20_memory R64). -/
theorem resolveEpc_ok {la pa : Word} :
    resolveEpc s la = .ok pa ↔ translate s.paging la .readWrite = .ok pa ∧ isEpc s.cfg pa = true := by
  simp [resolveEpc]

/-- The page check passes exactly on a page of the enclave (41 R170). -/
theorem enclavePageCheck_ok {secs la pa : Word} {pt : PageType} :
    enclavePageCheck s secs la pt = .ok pa ↔ EnclavePage s secs la pt pa := by
  constructor
  · intro h
    simp only [enclavePageCheck, check_bind_ok, resolveEpc_ok, raiseIf_ok, check_pure_ok] at h
    obtain ⟨q, ⟨htr, hepc⟩, _, hv, _, hb, _, hpm, _, hrest, rfl⟩ := h
    simp only [not_or, Bool.not_eq_true, ne_eq, not_not, Bool.not_eq_false] at hv hb hpm hrest
    exact ⟨htr, hepc, hv, hb, hpm.1, hpm.2, hrest.1, hrest.2.1, hrest.2.2.1, hrest.2.2.2.1, hrest.2.2.2.2⟩
  · intro h
    simp only [enclavePageCheck, check_bind_ok, resolveEpc_ok, raiseIf_ok, check_pure_ok]
    exact ⟨pa, ⟨h.translates, h.in_epc⟩, (), by simp [h.valid], (), by simp [h.not_blocked], (),
      by simp [h.not_pending, h.not_modified], (),
      by simp [h.own_address, h.type, h.same_enclave, h.readable, h.writable], rfl⟩

/-- The page check raises nothing but a page fault at the address it was given (41 R170). -/
theorem enclavePageCheck_error {secs la : Word} {pt : PageType} {e : Stop}
    (h : enclavePageCheck s secs la pt = .error e) : ∃ code, e = .fault (.pf la code) := by
  simp only [enclavePageCheck, resolveEpc, raisePf, check_bind_error, check_bind_ok, translateOrRaise_error,
    raiseIf_error, check_pure_error] at h
  aesop

/-- Where the page does not translate, the page check raises the oracle's own fault (20_memory R63, 60_exceptions R262). -/
theorem enclavePageCheck_untranslated {secs la : Word} {pt : PageType} {code : Dword}
    (h : translate s.paging la .readWrite = .error code) :
    enclavePageCheck s secs la pt = .error (.fault (.pf la code)) := by
  simp [enclavePageCheck, resolveEpc, h]

/-- The SSA loop passes exactly when every page it visits is a page of the enclave (41 R169). -/
theorem ssaPageLoop_ok {L : Launch} {n k : Nat} {pages : List Word} :
    ssaPageLoop s L n k = .ok pages ↔
      pages.length = k ∧ ∀ i, (hi : i < pages.length) →
        EnclavePage s L.tmpSecs (tmpSsaPage (mode64 s) L (n + i)) .reg pages[i] := by
  induction k generalizing n pages with
  | zero =>
    constructor
    · intro h
      cases h
      exact ⟨rfl, fun i hi => absurd hi (by simp)⟩
    · rintro ⟨h, -⟩
      rw [List.length_eq_zero_iff.mp h]
      rfl
  | succ k ih =>
    simp only [ssaPageLoop, check_bind_ok, enclavePageCheck_ok, check_pure_ok, ih]
    constructor
    · rintro ⟨pa, hpa, rest, ⟨hlen, hrest⟩, rfl⟩
      refine ⟨by simp [hlen], fun i hi => ?_⟩
      cases i with
      | zero => exact hpa
      | succ i =>
        have := hrest i (by simpa using hi)
        rwa [show n + 1 + i = n + (i + 1) by omega] at this
    · rintro ⟨hlen, hall⟩
      cases pages with
      | nil => simp at hlen
      | cons p ps =>
        refine ⟨p, hall 0 (by simp), ps, ⟨by simpa using hlen, fun i hi => ?_⟩, rfl⟩
        have := hall (i + 1) (by simpa using hi)
        rwa [show n + (i + 1) = n + 1 + i by omega] at this

/-- What EENTER can do: enter, when every check passes, or stop at the first check that raises (40 R131). -/
theorem eenter_cases (s : State) :
    (∃ e, eenterChecks s = .ok e ∧ eenter s = .next (commitEntry s e)) ∨
      (∃ st, eenterChecks s = .error st ∧ eenter s = raiseStop st) := by
  unfold eenter
  split
  · exact .inl ⟨_, ‹_›, rfl⟩
  · exact .inr ⟨_, ‹_›, rfl⟩

/-- ENCLU answers a next state exactly when it is available, its leaf is EENTER, and every check passes
(30_encoding R101). -/
theorem exec_enclu_next {s t : State} :
    exec .enclu s = .next t ↔
      encluAvailable s = true ∧ leafNumber s = eenterLeaf ∧ ∃ e, eenterChecks s = .ok e ∧ t = commitEntry s e := by
  show execEnclu s = .next t ↔ _
  unfold execEnclu
  rcases eenter_cases s with ⟨e, he, hx⟩ | ⟨st, he, hx⟩
  · by_cases ha : encluAvailable s = true
    · by_cases hl : leafNumber s = eenterLeaf
      · simp only [ha, hl, hx, he, if_true, Host.Outcome.next.injEq, true_and, Except.ok.injEq, exists_eq_left']
        exact eq_comm
      · simp [ha, hl, raiseStop]
    · simp [ha, raiseStop]
  · by_cases ha : encluAvailable s = true
    · by_cases hl : leafNumber s = eenterLeaf
      · cases st <;> simp [ha, hl, hx, he, raiseStop]
      · simp [ha, hl, raiseStop]
    · simp [ha, raiseStop]

/-- An available ENCLU of the EENTER leaf stops as its first raising check says. -/
theorem exec_enclu_stop {s : State} {st : Stop} (ha : encluAvailable s = true) (hl : leafNumber s = eenterLeaf)
    (h : eenterChecks s = .error st) : exec .enclu s = raiseStop st := by
  show execEnclu s = _
  simp [execEnclu, ha, hl, eenter, h]

/-- The machine steps to a next state only by executing a decoded instruction, with no event due. -/
theorem step_next {s t : State} (h : step s = .next t) :
    pendingEventDue s = false ∧ ∃ i, fetchInstr s = .ok i ∧ exec i s = .next t := by
  unfold step at h
  split at h
  · simp [raiseStop] at h
  · rename_i hp
    split at h
    · exact ⟨by simpa using hp, _, ‹_›, h⟩
    · rename_i st _
      cases st <;> simp [raiseStop] at h

end Sys2Proof.Laws
end

