-- ==== Sys2Proof/Laws/Decode.lean ====
section
/-! SUPPORT. What the decoder's parts can answer: stripping the bytes of ENCLU, dropping prefixes, and the parameters
`ENCLU_BYTES` and `ENCLU_LEN`. -/

namespace Sys2Proof.Laws

open Sys2Proof

@[simp] theorem encode_enclu (c : Config) : encode c .enclu = c.encluBytes := rfl

/-- Bytes are stripped exactly where they stand in front. -/
theorem stripBytes_eq_some {pre bytes rest : List Byte} : stripBytes pre bytes = some rest ↔ bytes = pre ++ rest := by
  induction pre generalizing bytes with
  | nil => simp [stripBytes]
  | cons p pre ih =>
    cases bytes with
    | nil => simp [stripBytes]
    | cons b bytes =>
      rw [stripBytes]
      split
      · rename_i h; simp [h, ih]
      · rename_i h; simp [Ne.symm h]

theorem afterEnclu_eq_some {c : Config} {bytes rest : List Byte} :
    afterEnclu c bytes = some rest ↔ bytes = c.encluBytes ++ rest := stripBytes_eq_some

/-- Prefixes in front of a byte that is none are dropped, and nothing else. -/
theorem dropPrefixes_append {m : Bool} {ps bs : List Byte} {b : Byte} (hp : ∀ p ∈ ps, isPrefixByte m p = true)
    (hb : isPrefixByte m b = false) : dropPrefixes m (ps ++ b :: bs) = b :: bs := by
  induction ps with
  | nil => simp [dropPrefixes, hb]
  | cons p ps ih =>
    rw [List.cons_append, dropPrefixes, if_pos (hp p (by simp))]
    exact ih fun q hq => hp q (List.mem_cons_of_mem _ hq)

/-- A byte that is no prefix in 64-bit mode is none in 32-bit mode. -/
theorem isPrefixByte_of_64 {m : Bool} {b : Byte} (h : isPrefixByte true b = false) : isPrefixByte m b = false := by
  cases m
  · simp only [isPrefixByte, Bool.or_eq_false_iff] at h ⊢
    exact ⟨h.1, rfl⟩
  · exact h

theorem encluUnprefixed_head {c : Config} (h : c.encluUnprefixed = true) :
    ∃ b bs, c.encluBytes = b :: bs ∧ ∀ m : Bool, isPrefixByte m b = false := by
  unfold Config.encluUnprefixed at h
  split at h
  · cases h
  · rename_i b bs hb
    exact ⟨b, bs, hb, fun m => isPrefixByte_of_64 (by simpa using h)⟩

theorem encluOk_length {c : Config} (h : c.encluOk = true) :
    c.encluBytes.length = c.encluLen ∧ c.encluBytes.length ≤ 15 := by
  simp only [Config.encluOk, Bool.and_eq_true, decide_eq_true_eq] at h
  omega

end Sys2Proof.Laws
end

