-- ==== Sys2Proof/Laws/Eenter.lean ====
section
/-! SUPPORT. One lemma per group of EENTER's checks: the group passes exactly under its condition of
Sys2Proof/Safety.lean, and what it can raise. -/

namespace Sys2Proof.Laws

open Sys2Proof.Machine Sys2Proof.Safety

/-- A check that raises nothing but #GP(0). -/
def RaisesOnlyGp {α : Type} (x : Check α) : Prop := ∀ e, x = .error e → e = raiseGp

theorem raiseIf_onlyGp {c : Prop} [Decidable c] : RaisesOnlyGp (raiseIf c raiseGp) := fun _ h =>
  (raiseIf_error.mp h).2.symm

theorem bind_onlyGp {α β : Type} {x : Check α} {f : α → Check β} (hx : RaisesOnlyGp x)
    (hf : ∀ a, RaisesOnlyGp (f a)) : RaisesOnlyGp (x >>= f) := fun e h => by
  rcases check_bind_error.mp h with h | ⟨a, -, h⟩
  · exact hx e h
  · exact hf a e h

/-- A check that raises only #GP(0) and does not pass raises #GP(0). -/
theorem RaisesOnlyGp.raises {x : Check Unit} (hx : RaisesOnlyGp x) (h : x ≠ .ok ()) : x = .error raiseGp := by
  cases hc : x with
  | ok u => exact absurd hc h
  | error e => rw [hx e hc]

/-! ### Alignment and width -/

theorem isAligned_4096 {a : Word} : isAligned a 4096 = true ↔ a.toNat % 4096 = 0 := by
  have h : (a &&& (4096 - 1)).toNat = a.toNat % 4096 := by
    rw [BitVec.toNat_and]
    exact Nat.and_two_pow_sub_one_eq_mod a.toNat 12
  unfold isAligned
  rw [beq_iff_eq, ← BitVec.toNat_inj, h]
  rfl

theorem isAligned_16 {a : Word} : isAligned a 16 = true ↔ a.toNat % 16 = 0 := by
  have h : (a &&& (16 - 1)).toNat = a.toNat % 16 := by
    rw [BitVec.toNat_and]
    exact Nat.and_two_pow_sub_one_eq_mod a.toNat 4
  unfold isAligned
  rw [beq_iff_eq, ← BitVec.toNat_inj, h]
  rfl

theorem offset_toNat (a : Word) : (a &&& 0xFFF).toNat = a.toNat % 4096 := by
  rw [BitVec.toNat_and]
  exact Nat.and_two_pow_sub_one_eq_mod a.toNat 12

theorem wide_eq_false {a : Word} : wide a = false ↔ a.toNat < 2 ^ 32 := by
  unfold wide
  rw [Bool.not_eq_false', beq_iff_eq, ← BitVec.toNat_inj, BitVec.toNat_ushiftRight, Nat.shiftRight_eq_div_pow]
  show a.toNat / 2 ^ 32 = 0 ↔ _
  omega

theorem flagsReserved_zero {a : Word} : a &&& flagsReserved = 0 ↔ a.toNat < 4 := by
  constructor
  · intro h
    by_contra hge
    have hs : a >>> 2 = 0 := by
      ext i hi
      have := congrArg (fun v : Word => v.getLsbD (i + 2)) h
      simp only [flagsReserved, BitVec.getLsbD_and] at this
      rw [BitVec.getElem_ushiftRight]
      by_cases hb : i + 2 < 64
      · have hm : (0xFFFFFFFFFFFFFFFC#64).getLsbD (i + 2) = true := by
          have : ∀ j : Fin 64, 2 ≤ j.val → (0xFFFFFFFFFFFFFFFC#64).getLsbD j.val = true := by decide
          exact this ⟨i + 2, hb⟩ (by simp)
        rw [show (2 + i) = i + 2 by omega]
        simpa [hm] using this
      · rw [show (2 + i) = i + 2 by omega]
        simp [BitVec.getLsbD_of_ge a (i + 2) (by omega)]
    have := congrArg BitVec.toNat hs
    rw [BitVec.toNat_ushiftRight, Nat.shiftRight_eq_div_pow] at this
    have hz : a.toNat / 2 ^ 2 = 0 := this
    omega
  · intro h
    have hall : ∀ n : Fin 4, BitVec.ofNat 64 n.val &&& flagsReserved = 0 := by decide
    have := hall ⟨a.toNat, h⟩
    simpa using this

theorem segBase_zero {r : SegReg} : segBase false r = 0 ↔ r.base.setWidth 32 = 0#32 := by
  unfold segBase
  rw [atWidth_false]
  constructor
  · intro h
    have := congrArg (fun v : Word => v.setWidth 32) h
    simpa using this
  · intro h
    rw [h]
    rfl

/-! ### The caller's side -/

variable {s : State}

theorem checkNotInEnclave_ok {u : Unit} : checkNotInEnclave s = .ok u ↔ s.sgx.enclaveMode = false := by
  simp [checkNotInEnclave]

/-- The operand checks pass exactly on an acceptable operand (R143 to R145, R147). -/
theorem operandChecks_ok :
    ((∃ u, checkDs s = .ok u) ∧ (∃ u, checkBases s = .ok u) ∧ (∃ u, checkTcsAligned s = .ok u) ∧
      ∃ u, checkTcsInDs s = .ok u) ↔ OperandOk s := by
  simp only [checkDs, checkBases, checkTcsAligned, checkTcsInDs, check_bind_ok, raiseIf_ok, exists_const]
  constructor
  · rintro ⟨hds, ⟨hb, he, hs, hsb⟩, ha, hl⟩
    refine ⟨fun hm => ?_, by simpa using ha, fun hm hc => ?_⟩
    · simp only [hm, true_and, not_or, not_and, ne_eq, Classical.not_not, segBase_zero] at hds hb he hs hsb
      refine ⟨by simpa using hds.1, ?_, hb.1, hb.2, he, hs, fun hu => by simpa using hsb hu⟩
      rintro ⟨h1, h2, h3⟩
      exact hds.2 h1 h2 h3
    · simp only [hm, hc, true_and] at hl
      omega
  · rintro ⟨hf, ha, hl⟩
    refine ⟨?_, ⟨?_, ?_, ?_, ?_⟩, fun h => (by rw [ha] at h; cases h), ?_⟩
    · rintro ⟨hm, hu | h⟩
      · rw [(hf hm).ds_usable] at hu; cases hu
      · exact (hf hm).ds_expand_up h
    · rintro ⟨hm, h | h⟩
      · exact h (segBase_zero.mpr (hf hm).cs_base)
      · exact h (segBase_zero.mpr (hf hm).ds_base)
    · rintro ⟨hm, hu, h⟩; exact h (segBase_zero.mpr ((hf hm).es_base hu))
    · rintro ⟨hm, hu, h⟩; exact h (segBase_zero.mpr ((hf hm).ss_base hu))
    · rintro ⟨hm, hu, h⟩; rw [(hf hm).ss_big hu] at h; cases h
    · rintro ⟨hm, hc, h⟩
      have := hl hm hc
      omega

theorem checkTcsCanonical_ok {u : Unit} : checkTcsCanonical s = .ok u ↔ OperandCanonical s := by
  simp [checkTcsCanonical, OperandCanonical]

theorem resolveTcs_ok {pa : Word} : resolveEpc s (tcsLa s) = .ok pa ↔ TcsResolves s pa := by
  rw [resolveEpc_ok]
  exact ⟨fun h => ⟨h.1, h.2⟩, fun h => ⟨h.translates, h.in_epc⟩⟩

theorem aepAndLocks_ok :
    ((∃ u, checkAepCanonical s = .ok u) ∧ ∃ u, checkConcurrency s = .ok u) ↔ AepAndLocksOk s := by
  simp only [checkAepCanonical, checkConcurrency, check_bind_ok, raiseIf_ok, exists_const]
  constructor
  · rintro ⟨ha, ht, hs⟩
    exact ⟨fun hm => by simpa [hm] using ha, by simpa using ht, by simpa using hs⟩
  · rintro ⟨ha, ht, hs⟩
    refine ⟨?_, by simp [ht], by simp [hs]⟩
    rintro ⟨hm, h⟩
    rw [ha hm] at h; cases h

/-! ### The TCS, the SECS and the control registers -/

theorem checkTcsPage_ok {pa : Word} {u : Unit} : checkTcsPage s pa = .ok u ↔ TcsPageOk s pa := by
  simp only [checkTcsPage, check_bind_ok, raiseIf_ok, exists_const, not_or, ne_eq, Classical.not_not,
    Bool.not_eq_true, Bool.not_eq_false]
  exact ⟨fun ⟨a, b, c, d⟩ => ⟨a, b, c.1, c.2, d.1, d.2⟩, fun h =>
    ⟨h.valid, h.not_blocked, ⟨h.own_address, h.type⟩, h.not_pending, h.not_modified⟩⟩

theorem checkNarrow_ok {L : Launch} {u : Unit} : checkNarrow (mode64 s) L = .ok u ↔ NarrowFields s L := by
  simp only [checkNarrow, raiseIf_ok, NarrowFields, not_and, not_or, Bool.not_eq_true, wide_eq_false]

/-- The control checks pass exactly when the TCS, the SECS and the control registers agree (R157 to R166). -/
theorem controls_ok {L : Launch} :
    ((∃ u, checkOffsets L = .ok u) ∧ (∃ u, checkFlagsReserved L = .ok u) ∧
      (∃ u, checkEnclave (mode64 s) L = .ok u) ∧ (∃ u, checkXfrm s L = .ok u) ∧
      (∃ u, checkAexNotify L = .ok u) ∧ ∃ u, checkFreeFrame L = .ok u) ↔ ControlsOk s L := by
  have hx : (∃ u, checkXfrm s L = .ok u) ↔ cr4Osfxsr s.sys.cr4 = true ∧ XfrmLegal s L := by
    unfold checkXfrm XfrmLegal
    split <;> simp
  rw [hx]
  simp only [checkOffsets, checkFlagsReserved, checkEnclave, checkAexNotify, checkFreeFrame, check_bind_ok,
    raiseIf_ok, exists_const, not_or, ne_eq, Classical.not_not, Bool.not_eq_false, isAligned_4096,
    flagsReserved_zero, not_and]
  constructor
  · rintro ⟨⟨h1, h2, h3⟩, h4, ⟨h5, h6⟩, ⟨h7, h8⟩, h9, h10⟩
    exact ⟨h1, h2, h3, h4, h5, h6.symm, h7, h8, h9, by simpa [BitVec.le_def] using h10⟩
  · intro h
    exact ⟨⟨h.ossa_aligned, h.ofsbase_aligned, h.ogsbase_aligned⟩, h.flags_reserved,
      ⟨h.initialized, h.mode_matches.symm⟩, ⟨h.osfxsr, h.xfrm_legal⟩, h.aexnotify,
      by simpa [BitVec.le_def] using h.free_frame⟩

/-! ### The SSA frame, the entry point and the CET save page -/

/-- The loop passes exactly when every page it visits is a page of the enclave (R169). -/
theorem ssaFrame_ok {L : Launch} :
    (∃ pages, ssaPageLoop s L 0 (ssaPageCount s.cfg L) = .ok pages) ↔ SsaFrameOk s L := by
  constructor
  · rintro ⟨pages, h⟩ n hn
    obtain ⟨hlen, hall⟩ := ssaPageLoop_ok.mp h
    have := hall n (by omega)
    rw [Nat.zero_add] at this
    exact ⟨_, this⟩
  · intro h
    choose f hf using h
    refine ⟨List.ofFn fun i : Fin (ssaPageCount s.cfg L) => f i.val i.isLt,
      ssaPageLoop_ok.mpr ⟨by simp, fun i hi => ?_⟩⟩
    simp only [List.getElem_ofFn, Nat.zero_add]
    exact hf i (by simpa using hi)

/-- The GPR area check passes exactly when its page is a page of the enclave, it does not cross a page, and it lies in DS
(R172, R173). -/
theorem gprAreaCheck_ok {L : Launch} {pa : Word} :
    gprAreaCheck s L = .ok pa ↔ GprPageOk s L pa ∧ GprInOnePage s L ∧ GprInDs s L := by
  simp only [gprAreaCheck, check_bind_ok, enclavePageCheck_ok, raiseIf_ok, check_pure_ok, exists_const,
    offset_toNat, not_and, Nat.not_lt, GprInOnePage, GprInDs, GprPageOk, gt_iff_lt]
  constructor
  · rintro ⟨q, hp, h1, h2, rfl⟩; exact ⟨hp, h1, h2⟩
  · rintro ⟨hp, h1, h2⟩; exact ⟨pa, hp, h1, h2, rfl⟩

theorem segmentInDs_iff {base last : Word} : segmentInDs s base last = true ↔ ProposedInDs s base last := by
  unfold segmentInDs ProposedInDs dsSpans4Gb
  by_cases h : last < base
  · have h' : last.toNat < base.toNat := h
    rw [if_pos h, if_pos h']
    cases s.cfg.ds4gbReading <;> simp
  · have h' : ¬ last.toNat < base.toNat := h
    rw [if_neg h, if_neg h', decide_eq_true_iff]

/-- The entry checks pass exactly when the entry point, FS and GS, the TCS state and the CET request are admissible
(R175 to R183). -/
theorem entryChecks_ok {L : Launch} {u : Unit} : entryChecks s L = .ok u ↔ EntryPointOk s L := by
  have hi : ¬ L.tcs.state = .active ↔ L.tcs.state = .inactive := by cases L.tcs.state <;> simp
  have hc : ∀ b : Bool, ¬ (b = true) ↔ b = false := fun b => by simp
  simp only [entryChecks, checkTarget, checkFsGs, checkInactive, checkCet, check_bind_ok, raiseIf_ok, exists_const]
  cases hm : mode64 s
  · simp only [if_false, Bool.false_eq_true, check_bind_ok, raiseIf_ok, exists_const, Bool.not_eq_false,
      segmentInDs_iff, hi, not_and, not_or, ne_eq, Classical.not_not, isAligned_16, gt_iff_lt, Nat.not_lt]
    constructor
    · rintro ⟨h1, ⟨h2, h3⟩, h4, h5, h6⟩
      refine ⟨by simp [hm], fun _ => h1, by simp [hm], fun _ => h2, fun _ => h3, h4, h5, fun h => ?_⟩
      simp only [cetOn, Bool.and_eq_true] at h
      exact h6 h.1 h.2
    · intro h
      exact ⟨h.target32 hm, ⟨h.fs32 hm, h.gs32 hm⟩, h.inactive, h.cet_enabled,
        fun h1 h2 => h.cet_aligned (by simp [cetOn, h1, h2])⟩
  · simp only [if_true, raiseIf_ok, exists_const, Bool.not_eq_false, hi, not_and, not_or, ne_eq, Classical.not_not,
      isAligned_16]
    constructor
    · rintro ⟨h1, h2, h4, h5, h6⟩
      refine ⟨fun _ => h1, by simp [hm], fun _ => h2, by simp [hm], by simp [hm], h4, h5, fun h => ?_⟩
      simp only [cetOn, Bool.and_eq_true] at h
      exact h6 h.1 h.2
    · intro h
      exact ⟨h.target64 hm, h.bases64 hm, h.inactive, h.cet_enabled,
        fun h1 h2 => h.cet_aligned (by simp [cetOn, h1, h2])⟩

theorem entryChecks_onlyGp {L : Launch} : RaisesOnlyGp (entryChecks s L) := by
  unfold entryChecks
  refine bind_onlyGp ?_ fun _ => bind_onlyGp ?_ fun _ => bind_onlyGp raiseIf_onlyGp fun _ =>
    bind_onlyGp raiseIf_onlyGp fun _ => raiseIf_onlyGp
  · unfold checkTarget; split <;> exact raiseIf_onlyGp
  · unfold checkFsGs
    split
    · exact raiseIf_onlyGp
    · exact bind_onlyGp raiseIf_onlyGp fun _ => raiseIf_onlyGp

/-- The CET check passes exactly when the save page, where it is asked, is a shadow-stack page of the enclave; it answers
the physical address of the slot (R185). -/
theorem cetSaveCheck_ok {L : Launch} {r : Option Word} :
    cetSaveCheck s L = .ok r ↔
      (cetOn s.cfg L = false ∧ r = none) ∨
      (cetOn s.cfg L = true ∧ ∃ pa, EnclavePage s L.tmpSecs (tmpCetSavePage (mode64 s) L) .ssRest pa ∧
        r = some (pa + (tmpCetSaveArea (mode64 s) L &&& 0xFFF))) := by
  unfold cetSaveCheck
  split
  · rename_i h
    simp only [h, check_bind_ok, enclavePageCheck_ok, check_pure_ok, Bool.true_eq_false, false_and, false_or, true_and]
    exact ⟨fun ⟨pa, hp, hr⟩ => ⟨pa, hp, hr.symm⟩, fun ⟨pa, hp, hr⟩ => ⟨pa, hp, hr.symm⟩⟩
  · rename_i h
    rw [Bool.not_eq_true] at h
    simp only [h, Except.ok.injEq, true_and, Bool.false_eq_true, false_and, or_false]
    exact eq_comm

end Sys2Proof.Laws
end

