-- ==== Sys2Proof/Laws/Groups.lean ====
section
/-! SUPPORT. One lemma per group of checks that runs as a whole: what it says when it passes. With them, the two ways a
sequence of checks goes on, and the operations at the width of the mode that the committed state uses. -/

namespace Sys2Proof.Laws

open Sys2Proof.Machine Sys2Proof.Safety

section Sequence
variable {α β : Type}

/-- A sequence raises what its first part raises. -/
theorem bind_of_error {x : Check α} {f : α → Check β} {e : Stop} (h : x = .error e) : (x >>= f) = .error e := by
  subst h; rfl

/-- A sequence whose first part passes goes on with the rest. -/
theorem bind_of_ok {x : Check α} {f : α → Check β} {a : α} (h : x = .ok a) : (x >>= f) = f a := by
  subst h; rfl

end Sequence

variable {s : State}

/-- The caller's checks pass exactly when the caller's side of an entry is right; they answer the physical address of the
TCS (R140 to R152). -/
theorem callerChecks_ok {pa : Word} (ha : encluAvailable s = true) (hl : leafNumber s = eenterLeaf) :
    callerChecks s = .ok pa ↔ CallerOk s pa := by
  have hop := operandChecks_ok (s := s)
  have hal := aepAndLocks_ok (s := s)
  simp only [callerChecks, check_bind_ok, check_pure_ok, resolveTcs_ok, checkTcsCanonical_ok, checkNotInEnclave_ok]
  constructor
  · rintro ⟨_, h1, _, h2, _, h3, _, h4, _, h5, _, h6, q, h7, _, h8, _, h9, rfl⟩
    exact ⟨⟨ha, hl, h1⟩, hop.mp ⟨⟨_, h2⟩, ⟨_, h3⟩, ⟨_, h4⟩, ⟨_, h5⟩⟩, h6, h7, hal.mp ⟨⟨_, h8⟩, ⟨_, h9⟩⟩⟩
  · intro h
    obtain ⟨⟨_, h2⟩, ⟨_, h3⟩, ⟨_, h4⟩, ⟨_, h5⟩⟩ := hop.mpr h.operand
    obtain ⟨⟨_, h8⟩, ⟨_, h9⟩⟩ := hal.mpr h.aep_locks
    exact ⟨(), h.callable.outside, _, h2, _, h3, _, h4, _, h5, (), h.canonical, pa, h.resolves, _, h8, _, h9, rfl⟩

/-- The control checks pass exactly when the TCS page, the widths and the controls are right (R153 to R166). -/
theorem controlChecks_ok {L : Launch} {u : Unit} :
    controlChecks s L = .ok u ↔ TcsPageOk s L.tcsPa ∧ NarrowFields s L ∧ ControlsOk s L := by
  have hco := controls_ok (s := s) (L := L)
  simp only [controlChecks, check_bind_ok, checkTcsPage_ok, checkNarrow_ok]
  constructor
  · rintro ⟨_, h1, _, h2, _, h3, _, h4, _, h5, _, h6, _, h7, h8⟩
    exact ⟨h1, h2, hco.mp ⟨⟨_, h3⟩, ⟨_, h4⟩, ⟨_, h5⟩, ⟨_, h6⟩, ⟨_, h7⟩, ⟨_, h8⟩⟩⟩
  · rintro ⟨h1, h2, h⟩
    obtain ⟨⟨_, h3⟩, ⟨_, h4⟩, ⟨_, h5⟩, ⟨_, h6⟩, ⟨_, h7⟩, ⟨_, h8⟩⟩ := hco.mpr h
    exact ⟨(), h1, (), h2, _, h3, _, h4, _, h5, _, h6, _, h7, h8⟩

/-- The SSA loop raises nothing but a page fault at a page it visits (R169). -/
theorem ssaPageLoop_error {L : Launch} {n k : Nat} {st : Stop} (h : ssaPageLoop s L n k = .error st) :
    ∃ i code, n ≤ i ∧ i < n + k ∧ st = .fault (.pf (tmpSsaPage (mode64 s) L i) code) := by
  induction k generalizing n with
  | zero => cases h
  | succ k ih =>
    simp only [ssaPageLoop, check_bind_error, check_pure_error] at h
    rcases h with h | ⟨_, _, h⟩
    · obtain ⟨code, rfl⟩ := enclavePageCheck_error h
      exact ⟨n, code, by omega, by omega, rfl⟩
    · rcases h with h | ⟨_, _, h⟩
      · obtain ⟨i, code, h1, h2, h3⟩ := ih h
        exact ⟨i, code, by omega, by omega, h3⟩
      · exact h.elim

/-- The caller's checks in two parts: those that raise only #GP(0) on the operand, and the rest. -/
theorem callerChecks_split (s : State) :
    callerChecks s =
      ((do checkNotInEnclave s; checkDs s; checkBases s; checkTcsAligned s; checkTcsInDs s) >>= fun _ => do
        checkTcsCanonical s
        let tcsPa ← resolveEpc s (tcsLa s)
        checkAepCanonical s
        checkConcurrency s
        return tcsPa) := by
  simp only [callerChecks, bind_assoc]

/-! ### The width of the mode -/

/-- Reading at the width of the mode does not see a free upper half. -/
@[simp] theorem atWidth_writeFreeUpper (m : Bool) (n : Nat) (v : Word) :
    atWidth m (writeFreeUpper m n v) = atWidth m v := by
  cases m
  · simp only [atWidth, writeFreeUpper, Bool.false_eq_true, if_false]
    congr 1
    ext i hi
    simp only [BitVec.getElem_setWidth, BitVec.getLsbD_append, hi, if_true, BitVec.getLsbD_setWidth, decide_true,
      Bool.true_and]
  · rfl

@[simp] theorem atWidth_atWidth (m : Bool) (v : Word) : atWidth m (atWidth m v) = atWidth m v := by
  cases m
  · simp only [atWidth, Bool.false_eq_true, if_false]
    ext i hi
    simp
  · rfl

/-- In 64-bit mode a register write replaces the register. -/
theorem gprWrite_64 (g : Gprs) (r : Gpr) (v : Word) : gprWrite true g r v = gprSet g r v := by
  cases r <;> rfl

/-- The bits of a register after one is set. -/
theorem getLsbD_setBit (w : Word) {k i : Nat} (hi : i < 64) :
    (setBit w k).getLsbD i = (w.getLsbD i || decide (i = k)) := by
  simp only [setBit, bitMask, BitVec.getLsbD_or, BitVec.getLsbD_shiftLeft, hi, decide_true, Bool.true_and]
  congr 1
  by_cases h : i < k
  · simp [h]; omega
  · simp only [h, decide_false, Bool.not_false, Bool.true_and, BitVec.getLsbD_one]
    by_cases h' : i = k <;> simp [h'] ; omega

end Sys2Proof.Laws
end

