-- ==== Sys2Proof/Laws/Memory.lean ====
section
/-! SUPPORT. Keyed data and byte memory: what a read gives after a write, and that every write keeps the canonical
form. -/

namespace Sys2Proof.Laws

open Sys2Proof.Machine

section Keyed
variable {α : Type}

@[simp] theorem keyedGet_keyedPut_self (m : Keyed α) (k : Nat) (v : α) : keyedGet (keyedPut m k v) k = some v := by
  induction m with
  | nil => simp [keyedPut, keyedGet]
  | cons c m ih =>
    obtain ⟨k', v'⟩ := c
    unfold keyedPut
    split
    · simp [keyedGet]
    · split
      · simp [keyedGet]
      · rename_i h; simp [keyedGet, Ne.symm h, ih]

theorem keyedGet_keyedPut_ne (m : Keyed α) {j k : Nat} (v : α) (h : j ≠ k) :
    keyedGet (keyedPut m k v) j = keyedGet m j := by
  induction m with
  | nil => simp [keyedPut, keyedGet, Ne.symm h]
  | cons c m ih =>
    obtain ⟨k', v'⟩ := c
    unfold keyedPut
    split
    · simp [keyedGet, Ne.symm h]
    · split
      · rename_i hk; subst hk; simp [keyedGet, Ne.symm h]
      · simp [keyedGet, ih]

theorem mem_keyedPut {m : Keyed α} {k : Nat} {v : α} {e : Nat × α} (h : e ∈ keyedPut m k v) :
    e = (k, v) ∨ e ∈ m := by
  induction m with
  | nil => simpa [keyedPut] using h
  | cons c m ih =>
    obtain ⟨k', v'⟩ := c
    unfold keyedPut at h
    split at h
    · simpa using h
    · split at h
      · rcases List.mem_cons.mp h with h | h
        · exact .inl h
        · exact .inr (List.mem_cons_of_mem _ h)
      · rcases List.mem_cons.mp h with h | h
        · exact .inr (by simp [h])
        · exact (ih h).imp_right (List.mem_cons_of_mem _)

theorem keyedPut_sorted {m : Keyed α} (hm : keyedSorted m) (k : Nat) (v : α) : keyedSorted (keyedPut m k v) := by
  induction m with
  | nil => simp [keyedPut, keyedSorted]
  | cons c m ih =>
    obtain ⟨k', v'⟩ := c
    obtain ⟨hhead, htail⟩ := List.pairwise_cons.mp hm
    unfold keyedPut
    split
    · rename_i hlt
      refine List.pairwise_cons.mpr ⟨fun e he => ?_, hm⟩
      rcases List.mem_cons.mp he with rfl | he
      · exact hlt
      · exact Nat.lt_trans hlt (hhead e he)
    · split
      · rename_i heq
        subst heq
        exact List.pairwise_cons.mpr ⟨hhead, htail⟩
      · refine List.pairwise_cons.mpr ⟨fun e he => ?_, ih htail⟩
        rcases mem_keyedPut he with rfl | he
        · show k' < k
          omega
        · exact hhead e he

theorem keyedErase_sorted {m : Keyed α} (hm : keyedSorted m) (k : Nat) : keyedSorted (keyedErase m k) :=
  List.Pairwise.sublist List.filter_sublist hm

theorem keyedGet_keyedErase (m : Keyed α) (k j : Nat) :
    keyedGet (keyedErase m k) j = if j = k then none else keyedGet m j := by
  induction m with
  | nil => simp [keyedErase, keyedGet]
  | cons c m ih =>
    obtain ⟨k', v'⟩ := c
    unfold keyedErase at ih ⊢
    by_cases hk : k' = k
    · subst hk
      simp only [List.filter, ne_eq, not_true_eq_false, decide_false, ih, keyedGet]
      by_cases hj : j = k'
      · simp [hj]
      · simp [hj, Ne.symm hj]
    · simp only [List.filter, ne_eq, hk, not_false_eq_true, decide_true, keyedGet, ih]
      by_cases hj : k' = j
      · subst hj; simp [hk]
      · simp [hj]

variable [DecidableEq α]

/-- What a number reads as after a write: the value written, and every other number as before. -/
theorem keyedGetD_keyedSet (d : α) (m : Keyed α) (k j : Nat) (v : α) :
    keyedGetD d (keyedSet d m k v) j = if j = k then v else keyedGetD d m j := by
  unfold keyedGetD keyedSet
  by_cases hv : v = d
  · by_cases hj : j = k <;> simp [hv, hj, keyedGet_keyedErase]
  · by_cases hj : j = k
    · simp [hv, hj]
    · simp [hv, hj, keyedGet_keyedPut_ne m v hj]

/-- A write keeps the canonical form. -/
theorem keyedSet_wf {d : α} {m : Keyed α} (hm : keyedWf d m) (k : Nat) (v : α) : keyedWf d (keyedSet d m k v) := by
  unfold keyedSet
  split
  · exact ⟨keyedErase_sorted hm.1 k, fun e he => hm.2 e (List.mem_of_mem_filter he)⟩
  · rename_i hv
    refine ⟨keyedPut_sorted hm.1 k v, fun e he => ?_⟩
    rcases mem_keyedPut he with rfl | he
    · exact hv
    · exact hm.2 e he

end Keyed

/-! ### The cached pages of the XSAVE region -/

/-- Writing pages from index `n` on keeps the canonical form. -/
theorem putXsavePages_wf {m : Keyed Word} (hm : keyedWf 0 m) (n : Nat) (pas : List Word) :
    keyedWf 0 (putXsavePages m n pas) := by
  induction pas generalizing m n with
  | nil => exact hm
  | cons pa pas ih => exact ih (keyedSet_wf hm n pa) (n + 1)

/-- What an index holds after pages are written from `n` on: the page written to it, or what it held. -/
theorem keyedGetD_putXsavePages (m : Keyed Word) (n : Nat) (pas : List Word) (j : Nat) :
    keyedGetD 0 (putXsavePages m n pas) j =
      if n ≤ j then pas[j - n]?.getD (keyedGetD 0 m j) else keyedGetD 0 m j := by
  induction pas generalizing m n with
  | nil => simp [putXsavePages]
  | cons pa pas ih =>
    rw [putXsavePages, ih, keyedGetD_keyedSet]
    rcases Nat.lt_trichotomy j n with h | rfl | h
    · simp [show ¬ n ≤ j by omega, show ¬ n + 1 ≤ j by omega, show j ≠ n by omega]
    · simp
    · obtain ⟨k, rfl⟩ := Nat.exists_eq_add_of_lt h
      simp [show n ≤ n + k + 1 by omega, show n + k + 1 - n = k + 1 by omega, show n + k + 1 - (n + 1) = k by omega,
        show n + k + 1 ≠ n by omega]

/-! ### Byte memory -/

@[simp] theorem memReadByte_memWriteByte_self (m : List Host.Cell) (pa : Word) (b : Byte) :
    memReadByte (memWriteByte m pa b) pa = some b :=
  keyedGet_keyedPut_self m _ b

theorem memReadByte_memWriteByte_ne (m : List Host.Cell) {pa a : Word} (b : Byte) (h : a ≠ pa) :
    memReadByte (memWriteByte m pa b) a = memReadByte m a :=
  keyedGet_keyedPut_ne m b fun hk => h (BitVec.eq_of_toNat_eq hk)

theorem memWriteByte_wf {m : List Host.Cell} (hm : Memory.wf m) (pa : Word) (b : Byte) :
    Memory.wf (memWriteByte m pa b) := by
  refine ⟨keyedPut_sorted hm.1 _ b, fun c hc => ?_⟩
  rcases mem_keyedPut hc with rfl | hc
  · exact pa.isLt
  · exact hm.2 c hc

theorem memWriteBytes_wf {m : List Host.Cell} (hm : Memory.wf m) (pa : Word) (bs : List Byte) :
    Memory.wf (memWriteBytes m pa bs) := by
  induction bs generalizing m pa with
  | nil => exact hm
  | cons b bs ih => exact ih (memWriteByte_wf hm pa b) (pa + 1)

/-- An eight-byte store keeps the canonical form. -/
theorem physWrite8_wf {m : List Host.Cell} (hm : Memory.wf m) (pa v : Word) : Memory.wf (physWrite8 m pa v) :=
  memWriteBytes_wf hm pa _

/-- Bytes stored at other addresses leave a byte as it was. -/
theorem memReadByte_memWriteBytes_of_ne (m : List Host.Cell) (pa a : Word) (bs : List Byte)
    (h : ∀ i, i < bs.length → a ≠ pa + BitVec.ofNat 64 i) :
    memReadByte (memWriteBytes m pa bs) a = memReadByte m a := by
  induction bs generalizing m pa with
  | nil => rfl
  | cons b bs ih =>
    rw [memWriteBytes, ih, memReadByte_memWriteByte_ne]
    · simpa using h 0 (by simp)
    · intro i hi
      have := h (i + 1) (by simpa using hi)
      rwa [show pa + 1 + BitVec.ofNat 64 i = pa + BitVec.ofNat 64 (i + 1) by
        rw [BitVec.ofNat_add, BitVec.add_assoc, BitVec.add_comm 1]; rfl]

/-- A reset machine's memory and EPC are in canonical form. -/
theorem reset_canonical :
    Memory.wf State.reset.mem ∧ keyedWf epcmUnlisted State.reset.epc.epcm ∧
      keyedWf tcsUnlisted State.reset.epc.tcs ∧ keyedWf secsUnlisted State.reset.epc.secs ∧
      keyedWf 0 State.reset.sgx.xsavePages := by
  simp [State.reset, Memory.wf, keyedWf, keyedSorted]

end Sys2Proof.Laws
end

