-- ==== Sys2Proof/Laws/PerInstr.lean ====
section
/-! SUPPORT. Statements for all instructions, made per instruction. -/

namespace Sys2Proof.Laws.Length

open Sys2Proof

/-- The encoding of an instruction is `ENCLU_LEN` bytes long in a well-formed configuration, and starts with no prefix
where `ENCLU_BYTES` do not (30_encoding R93, R94, R97). -/
def Statement (i : Instr) : Prop :=
  ∀ c : Config, (c.encluOk = true → (encode c i).length = c.encluLen ∧ (encode c i).length ≤ 15) ∧
    (c.encluUnprefixed = true → ∃ b bs, encode c i = b :: bs ∧ ∀ m : Bool, isPrefixByte m b = false)

theorem enclu : Statement .enclu := fun _ => ⟨fun h => encluOk_length h, fun h => encluUnprefixed_head h⟩

end Sys2Proof.Laws.Length
end

