-- ==== Sys2Proof/Tests/Slice0.lean ====
section
/-! SUPPORT. Tests: the well-formedness smoke, decoding of words written out from 30_encoding R93, one step of the
instruction in each mode on the base states of spec/95_test_vectors.md, and for each statement with hypotheses a state
that meets them. The states are made from `State.reset`. -/

namespace Sys2Proof.Tests

open Sys2Proof Sys2Proof.Machine Sys2Proof.Safety Sys2Proof.Laws

/-! ### Well-formedness -/

theorem test_wf_instr : Instr.enclu.wellFormed = true := by decide

theorem test_wf_default : Config.wellFormed {} = true := by decide

theorem test_wf_refuses_slot_outside_area : Config.gprAreaOk { gprsgxSize := 159 } = false := by decide

theorem test_wf_refuses_overlapping_slots : Config.gprAreaOk { gprOffUrbp := 145 } = false := by decide

theorem test_wf_refuses_area_above_a_page : Config.gprAreaInPage { gprsgxSize := 4097 } = false := by decide

/-- A length that is not that of the bytes, no bytes, and sixteen of them. -/
theorem test_wf_refuses_enclu_lengths :
    Config.encluOk { encluLen := 4 } = false ∧ Config.encluOk { encluBytes := [], encluLen := 0 } = false ∧
      Config.encluOk { encluBytes := List.replicate 16 0x0F, encluLen := 16 } = false := by decide

theorem test_wf_refuses_epc_outside_addresses :
    Config.epcInAddressSpace { epcSections := [⟨2 ^ 52 - 1, 2⟩] } = false := by decide

/-! ### Decoding (30_encoding R93, R97, R101; vectors E1, E5, E6) -/

/-- 0FH = 0000 1111, 01H = 0000 0001, D7H = 1101 0111, the first byte most significant. -/
theorem test_decode_enclu_word : decodeTableWord 24 0b000011110000000111010111 = some .enclu := by decide

theorem test_decode_other_word : decodeTableWord 24 0b000011110000000111001111 = none := by decide

theorem test_decode_swapped_word : decodeTableWord 24 0xD7010F = none := by decide

theorem test_decode_enclu_bytes : decode {} false [0x0F, 0x01, 0xD7, 0x90] = .ok (.enclu, [0x90]) := by decide

theorem test_decode_prefixed : decode {} true [0xF3, 0x0F, 0x01, 0xD7] = .error .prefixedEnclu := by decide

theorem test_decode_rex_by_mode :
    decode {} true [0x48, 0x0F, 0x01, 0xD7] = .error .prefixedEnclu ∧
      decode {} false [0x48, 0x0F, 0x01, 0xD7] = .error .notInScope := by decide

/-- The bytes are a parameter (92 D2): with others, the default bytes are out of scope. -/
theorem test_decode_other_parameter :
    decode { encluBytes := [0x0F, 0x02] } true [0x0F, 0x02, 0x90] = .ok (.enclu, [0x90]) ∧
      decode { encluBytes := [0x0F, 0x02] } true [0x0F, 0x01, 0xD7] = .error .notInScope := by decide

theorem test_decode_truncated : decode {} true [0x0F, 0x01] = .error .truncated := by decide

/-! ### The base states (95_test_vectors 2.1 and 2.6) -/

/-- A read-write mapping of a linear page to a frame. -/
def rw (frame : BitVec 52) : PageEntry := ⟨.mapped frame, .mapped frame, .mapped frame, .mapped frame⟩

/-- The EPCM entry of a page of the enclave whose SECS is at 80000000H. -/
def page (pt : PageType) (la : Word) : Epcm :=
  { epcmUnlisted with valid := true, pt := pt, enclaveAddress := la, enclaveSecs := 0x80000000, r := true, w := true }

/-- The TCS of S64 and S32. -/
def tcs0 : Tcs :=
  { tcsUnlisted with
    ossa := 0x2000, nssa := 2, oentry := 0x5000, ofsbase := 0x8000, ogsbase := 0x9000, fslimit := 0xFFF
    gslimit := 0xFFF, ocetssa := 0xA000, prevssp := 0x7F00000C0FF8 }

/-- The SECS of S64. -/
def secs0 : Secs :=
  { secsUnlisted with
    baseaddr := 0x7F0000000000, size := 0x100000, ssaframesize := 1, initialized := true, mode64bit := true
    xfrm := 3 }

/-- The EPC with a TCS, two PT_REG pages and a shadow-stack page, built at a base. -/
def epcOf (base : Word) (tcs : Tcs) (secs : Secs) : Epc :=
  { epcm := [(0x80001, page .tcs (base + 0x1000)), (0x80002, page .reg (base + 0x2000)),
      (0x80003, page .reg (base + 0x3000)), (0x8000A, page .ssRest (base + 0xA000))]
    tcs := [(0x80001, tcs)]
    secs := [(0x80000, secs)] }

/-- The page tables that map the enclave at a base; every other page but that of the code faults. -/
def pagingOf (base : Nat) : Paging :=
  { pages := [(0x401, rw 0x401), (base + 1, rw 0x80001), (base + 2, rw 0x80002), (base + 3, rw 0x80003),
      (base + 10, rw 0x8000A)]
    unlisted := .fault 4 }

/-- A flat data segment. -/
def flat : SegReg :=
  { selector := 0x2B, base := 0, limit := 0xFFFFFFFF, ar := { AccessRights.atReset with dpl := 3, b := true, g := true } }

/-- S64: 64-bit mode, an opt-out entry that succeeds. -/
def s64 : State :=
  { State.reset with
    cfg := { epcSections := [⟨0x80000, 16⟩] }
    gpr := { State.reset.gpr with
      rax := 2, rbx := 0x7F0000001000, rcx := 0x402000, rsp := 0x7FFD0000FF00, rbp := 0x7FFD0000FF40 }
    rip := 0x401000
    seg := { cs := { flat with ar := { flat.ar with type := 0b1011, l := true } }, ss := flat, ds := flat, es := flat,
             fs := { flat with selector := 0, base := 0x7FFFF7FD0000 }, gs := { flat with selector := 0 } }
    sys := { State.reset.sys with
      cr0 := 1, cr4 := 0x40200, efer := 0x400, xcr0 := 7, uCet := 5, ssp := 0x7FFD10000FF8, cpl := 3, sgxEnabled := true }
    paging := pagingOf 0x7F0000000
    epc := epcOf 0x7F0000000000 tcs0 secs0 }

/-- S32: 32-bit mode, with marked upper halves. -/
def s32 : State :=
  { s64 with
    gpr := { s64.gpr with
      rax := 0xAAAAAAAA00000002, rbx := 0xBBBBBBBB10001000, rcx := 0xCCCCCCCC00402000, rsp := 0x0012FF00
      rbp := 0x0012FF40 }
    seg := { s64.seg with cs := { flat with ar := { flat.ar with type := 0b1011 } } }
    sys := { s64.sys with efer := 0 }
    paging := pagingOf 0x10000
    epc := epcOf 0x10000000 tcs0 { secs0 with baseaddr := 0x10000000, mode64bit := false } }

/-- A state with another TCS. -/
def withTcs (s : State) (f : Tcs → Tcs) : State :=
  { s with epc := { s.epc with tcs := s.epc.tcs.map fun e => (e.1, f e.2) } }

/-- A state with another SECS. -/
def withSecs (s : State) (f : Secs → Secs) : State :=
  { s with epc := { s.epc with secs := s.epc.secs.map fun e => (e.1, f e.2) } }

/-- A state with another EPCM entry at a page number. -/
def withPage (s : State) (n : Nat) (f : Epcm → Epcm) : State :=
  { s with epc := { s.epc with epcm := s.epc.epcm.map fun e => if e.1 = n then (e.1, f e.2) else e } }

/-- S64 on a processor with CET, and a shadow-stack enclave (vector T5). -/
def sCet : State :=
  withSecs { s64 with
    cfg := { s64.cfg with sgxCet := true, cpuCetIbt := true, cpuCetSs := true }
    sys := { s64.sys with cr4 := 0x840200 } } fun c => { c with cetAttributes := 1 }

/-- The state after a step that goes on. -/
def after : Host.Outcome State Fault Refusal → Option State
  | .next t => some t
  | _ => none

/-! ### One step in each mode (vectors V1 and V4) -/

theorem test_entry_64 :
    (after (exec .enclu s64)).map (fun t => (t.rip, t.gpr.rax, t.gpr.rcx, memReadBytes t.mem 0x80002FD8 8)) =
      some (0x7F0000005000, 0, 0x401003, some [0x00, 0xFF, 0x00, 0x00, 0xFD, 0x7F, 0x00, 0x00]) := by rfl

theorem test_entry_32 :
    (after (exec .enclu s32)).map (fun t => (t.gpr.rax, t.gpr.rcx, t.sgx.tcsLa, t.seg.gs.limit)) =
      some (0xAAAAAAAA00000000, 0xCCCCCCCC00401003, 0x10001000, 0xFFF) := by rfl

/-- ENCLU_LEN is a parameter (92 D2): RCX follows it. -/
theorem test_entry_other_length :
    (after (exec .enclu { s64 with cfg := { s64.cfg with encluLen := 5 } })).map (fun t => t.gpr.rcx) =
      some 0x401005 := by rfl

/-- CR_XSAVE_PAGE_0 after an entry (vector of 95_test_vectors 2.1, R169), an index that the entry does not write, and
every index at reset (log 5). -/
theorem test_xsave_pages :
    (after (exec .enclu s64)).map (fun t => (xsavePage t.sgx 0, xsavePage t.sgx 1)) = some (0x80002000, 0) ∧
      ∀ n, xsavePage State.reset.sgx n = 0 := ⟨rfl, fun _ => rfl⟩

/-- What the host asks of the first instruction after reset: ENCLU is fetched and run, and SGX is not enabled. -/
theorem test_reset_runs_enclu : step (State.reset.withFetchWord 24 0x0F01D7) = .fault .ud := by rfl

/-! ### States that meet the hypotheses of the statements -/

theorem test_meets_OnlyTheEncodingDecodes : decode {} true (encode {} .enclu ++ [0]) = .ok (.enclu, [0]) := by decide

theorem test_meets_PrefixedEncluIsRefusedByName : Config.encluUnprefixed {} = true ∧
    ∀ p ∈ [(0x48 : Byte), 0x66, 0xF0], isPrefixByte true p = true := by decide

/-- S64 with the bytes of ENCLU at its instruction pointer. -/
def sFetch : State := s64.withFetchWord 24 0x0F01D7

theorem test_meets_StepRunsTheDecodedInstruction :
    (encode sFetch.cfg .enclu).length = 3 ∧ pendingEventDue sFetch = false ∧ fetchByte sFetch 0 = .ok 0x0F ∧ fetchByte sFetch 1 = .ok 0x01 ∧
      fetchByte sFetch 2 = .ok 0xD7 := ⟨rfl, rfl, rfl, rfl, rfl⟩

/-- S64 with `n` operand-size prefixes before the bytes of ENCLU. -/
def sPrefixed (n : Nat) : State := storeFetchBytes s64 0 (List.replicate n 0x66 ++ [0x0F, 0x01, 0xD7])

/-- Twelve prefixes and ENCLU fill the fetch window; thirteen overrun it, and which name that string is refused by is the
model's choice (log 44). -/
theorem test_prefixes_and_the_window :
    step (sPrefixed 12) = .refused .prefixedEnclu ∧ step (sPrefixed 13) = .refused .notInScope := ⟨rfl, rfl⟩

theorem test_meets_StepStopsAtAPendedEvent :
    (State.sgx { s64 with sgx := { s64.sgx with enclaveMode := true } }).enclaveMode = true ∧
      (State.dbg { s64 with dbg := { s64.dbg with pendingDb := true } }).pendingDb = true ∧
      (State.virt { s64 with virt := { s64.virt with pendingMtf := true } }).pendingMtf = true := ⟨rfl, rfl, rfl⟩

/-- S64 under the predicate of R96, where every condition holds, and with each of the five failing alone; and a
configuration that has another predicate. -/
theorem test_meets_UnavailableEncluRaisesUd :
    s64.cfg.encluAvailability = .generalKnowledge ∧ encluAvailable s64 = true ∧
      exec .enclu { s64 with cfg := { s64.cfg with sgx1 := false } } = .fault .ud ∧
      exec .enclu { s64 with sys := { s64.sys with sgxEnabled := false } } = .fault .ud ∧
      exec .enclu { s64 with sys := { s64.sys with cr0 := 2 } } = .fault .ud ∧
      exec .enclu { s64 with rflags := 0x20000 } = .fault .ud ∧
      exec .enclu { s64 with sys := { s64.sys with cpl := 2 } } = .fault .ud ∧
      encluAvailable { s64 with cfg := { s64.cfg with encluAvailability := .other } } =
        Config.openEncluAvailable { s64.cfg with encluAvailability := .other } true 1 0x40200 0x400 2 3 :=
  ⟨rfl, rfl, rfl, rfl, rfl, rfl, rfl, rfl⟩

/-- S64 with another value in RAX. -/
def withRax (s : State) (v : Word) : State := { s with gpr := { s.gpr with rax := v } }

theorem test_meets_OtherLeafIsRefused :
    encluAvailable (withRax s64 3) = true ∧ (withRax s64 3).gpr.rax.setWidth 32 ≠ 2#32 ∧
      (withRax s64 0x200000001).gpr.rax.setWidth 32 ≠ 2#32 := by decide

theorem test_meets_UpperRaxIsIgnored :
    mode64 s64 = true ∧ (0xDEADBEEF00000002 : Word).setWidth 32 = (2 : Word).setWidth 32 := by decide

/-- A state with another value in RBX. -/
def withRbx (s : State) (v : Word) : State := { s with gpr := { s.gpr with rbx := v } }

theorem test_meets_MisalignedTcsRaisesGp :
    encluAvailable (withRbx s64 0x7F0000001001) = true ∧ leafNumber (withRbx s64 0x7F0000001001) = eenterLeaf ∧
      (tcsLa (withRbx s64 0x7F0000001001)).toNat % 4096 ≠ 0 := by decide

/-- S32 with another DS limit. -/
def withDsLimit (s : State) (l : Dword) : State := { s with seg := { s.seg with ds := { s.seg.ds with limit := l } } }

theorem test_meets_EnclaveModeOrBadOperandRaisesGp :
    encluAvailable (withDsLimit s32 0x10001FFE) = true ∧ leafNumber (withDsLimit s32 0x10001FFE) = eenterLeaf ∧
      ¬ OperandOk (withDsLimit s32 0x10001FFE) ∧ OperandOk (withDsLimit s32 0x10001FFF) ∧
      ¬ OperandOk { s32 with seg := { s32.seg with ds := { flat with base := 0x1000 } } } :=
  ⟨rfl, rfl, fun h => absurd (h.in_ds rfl rfl) (by decide),
    operandChecks_ok.mp ⟨⟨(), rfl⟩, ⟨(), rfl⟩, ⟨(), rfl⟩, ⟨(), rfl⟩⟩, fun h => absurd (h.flat rfl).ds_base (by decide)⟩

theorem callable_of {s : State} (h : encluAvailable s = true ∧ leafNumber s = eenterLeaf ∧ s.sgx.enclaveMode = false) :
    Callable s := ⟨h.1, h.2.1, h.2.2⟩

theorem operand_of {s : State} (h1 : checkDs s = .ok ()) (h2 : checkBases s = .ok ()) (h3 : checkTcsAligned s = .ok ())
    (h4 : checkTcsInDs s = .ok ()) : OperandOk s :=
  operandChecks_ok.mp ⟨⟨(), h1⟩, ⟨(), h2⟩, ⟨(), h3⟩, ⟨(), h4⟩⟩

theorem canonical_of {s : State} (h : checkTcsCanonical s = .ok ()) : OperandCanonical s := checkTcsCanonical_ok.mp h

/-- 0000800000001000H is the first page above the canonical range of 48 bits that is one past its first page. -/
theorem test_meets_NonCanonicalTcsFaults :
    Callable (withRbx s64 0x800000001000) ∧ OperandOk (withRbx s64 0x800000001000) ∧
      mode64 (withRbx s64 0x800000001000) = true ∧
      isCanonical (withRbx s64 0x800000001000).cfg (withRbx s64 0x800000001000).gpr.rbx = false :=
  ⟨callable_of ⟨rfl, rfl, rfl⟩, operand_of rfl rfl rfl rfl, rfl, rfl⟩

/-- An unmapped TCS address, and one that maps outside the EPC. -/
theorem test_meets_UnresolvedTcsPageFaults :
    Callable (withRbx s64 0x7F0000007000) ∧ OperandOk (withRbx s64 0x7F0000007000) ∧
      OperandCanonical (withRbx s64 0x7F0000007000) ∧
      translate (withRbx s64 0x7F0000007000).paging (tcsLa (withRbx s64 0x7F0000007000)) .readWrite = .error 4 ∧
      translate (withRbx s64 0x401000).paging (tcsLa (withRbx s64 0x401000)) .readWrite = .ok 0x401000 ∧
      isEpc (withRbx s64 0x401000).cfg 0x401000 = false :=
  ⟨callable_of ⟨rfl, rfl, rfl⟩, operand_of rfl rfl rfl rfl, canonical_of rfl, rfl, rfl, rfl⟩

/-- S64 with a bad AEP, a TCS in use and a SECS in use. -/
def sBusy : State :=
  { s64 with gpr := { s64.gpr with rcx := 0x800000000000 }, draws := ⟨true, true⟩ }

theorem test_meets_NonCanonicalAep_and_LockConflict :
    Callable sBusy ∧ OperandOk sBusy ∧ OperandCanonical sBusy ∧ TcsResolves sBusy 0x80001000 ∧
      (mode64 sBusy = true ∧ isCanonical sBusy.cfg sBusy.gpr.rcx = false) ∧ sBusy.draws.tcsLockConflict = true ∧
      sBusy.draws.secsInUse = true :=
  ⟨callable_of ⟨rfl, rfl, rfl⟩, operand_of rfl rfl rfl rfl, canonical_of rfl,
    resolveTcs_ok.mp rfl, ⟨rfl, rfl⟩, rfl, rfl⟩

theorem caller_of {s : State} (h : callerChecks s = .ok 0x80001000) (ha : encluAvailable s = true)
    (hl : leafNumber s = eenterLeaf) : CallerOk s 0x80001000 := (callerChecks_ok ha hl).mp h

theorem tcsPage_of {s : State} (h : checkTcsPage s 0x80001000 = .ok ()) : TcsPageOk s 0x80001000 := checkTcsPage_ok.mp h

theorem narrow_of {s : State} (h : checkNarrow (mode64 s) (launchAt s 0x80001000) = .ok ()) :
    NarrowFields s (launchAt s 0x80001000) := checkNarrow_ok.mp h

/-- An EPCM entry of the TCS page with every field wrong. -/
def sBadTcsPage : State :=
  withPage s64 0x80001 fun e =>
    { e with valid := false, blocked := true, pending := true, modified := true, pt := .reg, enclaveAddress := 0 }

theorem test_meets_BadTcsPageFaults :
    CallerOk sBadTcsPage 0x80001000 ∧
      (let e := epcmAt sBadTcsPage.epc 0x80001000
       e.valid = false ∧ e.blocked = true ∧ e.enclaveAddress ≠ tcsLa sBadTcsPage ∧ e.pt ≠ .tcs ∧ e.pending = true ∧
        e.modified = true) :=
  ⟨caller_of rfl rfl rfl, by decide⟩

theorem test_meets_WideFieldsAreRefused :
    CallerOk (withTcs s32 fun t => { t with oentry := 0x100000000 }) 0x80001000 ∧
      TcsPageOk (withTcs s32 fun t => { t with oentry := 0x100000000 }) 0x80001000 ∧
      ¬ NarrowFields (withTcs s32 fun t => { t with oentry := 0x100000000 })
        (launchAt (withTcs s32 fun t => { t with oentry := 0x100000000 }) 0x80001000) ∧
      NarrowFields (withTcs s32 fun t => { t with oentry := 0xFFFFFFFF })
        (launchAt (withTcs s32 fun t => { t with oentry := 0xFFFFFFFF }) 0x80001000) :=
  ⟨caller_of rfl rfl rfl, tcsPage_of rfl, fun h => absurd (h rfl).2.2.1 (by decide), narrow_of rfl⟩

/-- A launch that passes every check down to the controls. -/
def ReachesControls (s : State) : Prop :=
  CallerOk s 0x80001000 ∧ TcsPageOk s 0x80001000 ∧ NarrowFields s (launchAt s 0x80001000)

/-- The lowest and the highest reserved bit. -/
theorem test_meets_ReservedTcsFlagsRaiseGp :
    (let s := withTcs s64 fun t => { t with flags := 4 }
     ReachesControls s ∧ (tcsAt s.epc 0x80001000).flags &&& 0xFFFFFFFFFFFFFFFC#64 ≠ 0) ∧
    (let s := withTcs s64 fun t => { t with flags := 0x8000000000000000 }
     ReachesControls s ∧ (tcsAt s.epc 0x80001000).flags &&& 0xFFFFFFFFFFFFFFFC#64 ≠ 0) :=
  ⟨⟨⟨caller_of rfl rfl rfl, tcsPage_of rfl, narrow_of rfl⟩, by decide⟩,
    ⟨caller_of rfl rfl rfl, tcsPage_of rfl, narrow_of rfl⟩, by decide⟩

/-- CSSA equal to NSSA, and NSSA of 0. -/
theorem test_meets_NoFreeSsaFrameRaisesGp :
    (let s := withTcs s64 fun t => { t with cssa := 2 }
     ReachesControls s ∧ (tcsAt s.epc 0x80001000).nssa.toNat ≤ (tcsAt s.epc 0x80001000).cssa.toNat) ∧
    (let s := withTcs s64 fun t => { t with nssa := 0 }
     ReachesControls s ∧ (tcsAt s.epc 0x80001000).nssa.toNat ≤ (tcsAt s.epc 0x80001000).cssa.toNat) :=
  ⟨⟨⟨caller_of rfl rfl rfl, tcsPage_of rfl, narrow_of rfl⟩, by decide⟩,
    ⟨caller_of rfl rfl rfl, tcsPage_of rfl, narrow_of rfl⟩, by decide⟩

theorem test_meets_MisalignedOffsetsRaiseGp :
    (let s := withTcs s64 fun t => { t with ossa := 0x2800, ofsbase := 0x8010, ogsbase := 0x9FFF }
     ReachesControls s ∧ (tcsAt s.epc 0x80001000).ossa.toNat % 4096 ≠ 0 ∧
      (tcsAt s.epc 0x80001000).ofsbase.toNat % 4096 ≠ 0 ∧ (tcsAt s.epc 0x80001000).ogsbase.toNat % 4096 ≠ 0) :=
  ⟨⟨caller_of rfl rfl rfl, tcsPage_of rfl, narrow_of rfl⟩, by decide⟩

/-- A mode that is not the enclave's, no OSFXSR, and AEXNOTIFY set for the thread only, together. -/
def sMismatch : State :=
  withSecs (withTcs { s64 with sys := { s64.sys with cr4 := 0x40000 } } fun t => { t with flags := 2 })
    fun c => { c with mode64bit := false }

theorem test_meets_ControlMismatchRaisesGp :
    ReachesControls sMismatch ∧ (launchAt sMismatch 0x80001000).secs.mode64bit ≠ mode64 sMismatch ∧
      cr4Osfxsr sMismatch.sys.cr4 = false ∧ flagsDbgOptIn (tcsAt sMismatch.epc 0x80001000).flags = false ∧
      flagsAexNotify (tcsAt sMismatch.epc 0x80001000).flags ≠ (launchAt sMismatch 0x80001000).secs.aexnotify :=
  ⟨⟨caller_of rfl rfl rfl, tcsPage_of rfl, narrow_of rfl⟩, by decide⟩

/-- A misaligned OSSA (vector F14), an AEXNOTIFY mismatch (F23), an illegal XFRM (F21), a mode mismatch (F19). -/
theorem test_meets_BadControlsRaiseGp :
    (let s := withTcs s64 fun t => { t with ossa := 0x2800 }
     ReachesControls s ∧ ¬ ControlsOk s (launchAt s 0x80001000)) ∧
    (let s := withTcs s64 fun t => { t with flags := 2 }
     ReachesControls s ∧ ¬ ControlsOk s (launchAt s 0x80001000)) ∧
    (let s := withSecs s64 fun c => { c with xfrm := 0xE7 }
     ReachesControls s ∧ ¬ ControlsOk s (launchAt s 0x80001000)) ∧
    (let s := withSecs s32 fun c => { c with mode64bit := true }
     ReachesControls s ∧ ¬ ControlsOk s (launchAt s 0x80001000)) :=
  ⟨⟨⟨caller_of rfl rfl rfl, tcsPage_of rfl, narrow_of rfl⟩, fun h => absurd h.ossa_aligned (by decide)⟩,
    ⟨⟨caller_of rfl rfl rfl, tcsPage_of rfl, narrow_of rfl⟩, fun h => absurd (h.aexnotify rfl) (by decide)⟩,
    ⟨⟨caller_of rfl rfl rfl, tcsPage_of rfl, narrow_of rfl⟩,
      fun h => absurd h.xfrm_legal (by unfold XfrmLegal; decide)⟩,
    ⟨caller_of rfl rfl rfl, tcsPage_of rfl, narrow_of rfl⟩, fun h => absurd h.mode_matches (by decide)⟩

/-- A launch that passes every check down to the SSA frame. -/
theorem controls_of {s : State} (h : controlChecks s (launchAt s 0x80001000) = .ok ()) :
    ControlsOk s (launchAt s 0x80001000) := (controlChecks_ok.mp h).2.2

/-- S64 with an XSAVE region of 4096 bytes, whose second page is the last of the inclusive bound, and that page bad. -/
def sBadSsa : State :=
  withPage { s64 with cfg := { s64.cfg with xsaveFrameSizes := [(3, 4096)] } } 0x80003 fun e => { e with w := false }

theorem test_meets_LowestBadSsaPageFaults :
    CallerOk sBadSsa 0x80001000 ∧ TcsPageOk sBadSsa 0x80001000 ∧ NarrowFields sBadSsa (launchAt sBadSsa 0x80001000) ∧
      ControlsOk sBadSsa (launchAt sBadSsa 0x80001000) ∧ 1 < ssaPageCount sBadSsa.cfg (launchAt sBadSsa 0x80001000) ∧
      (∀ n, n < 1 → SsaPageOk sBadSsa (launchAt sBadSsa 0x80001000) n) ∧
      ¬ SsaPageOk sBadSsa (launchAt sBadSsa 0x80001000) 1 := by
  refine ⟨caller_of rfl rfl rfl, tcsPage_of rfl, narrow_of rfl, controls_of rfl, by decide, fun n hn => ?_, ?_⟩
  · obtain rfl : n = 0 := by omega
    exact ⟨0x80002000, enclavePageCheck_ok.mp rfl⟩
  · rintro ⟨pa, h⟩
    have ht := h.translates
    have : translate sBadSsa.paging (tmpSsaPage (mode64 sBadSsa) (launchAt sBadSsa 0x80001000) 1) .readWrite =
        .ok 0x80003000 := rfl
    rw [this] at ht
    cases ht
    exact absurd h.writable (by decide)

/-- S64 with its frame's last page unmapped (vector A2, the second page of a frame of two). -/
def sBadGpr : State :=
  withSecs (withTcs s64 fun t => { t with ossa := 0x3000 }) fun c => { c with ssaframesize := 2 }

theorem sBadGpr_translate :
    translate sBadGpr.paging (tmpGpr sBadGpr.cfg (mode64 sBadGpr) (launchAt sBadGpr 0x80001000)) .readWrite = .error 4 :=
  rfl

/-- The page does not translate, so both clauses have their case. -/
theorem test_meets_BadGprPageFaults :
    CallerOk sBadGpr 0x80001000 ∧ TcsPageOk sBadGpr 0x80001000 ∧ NarrowFields sBadGpr (launchAt sBadGpr 0x80001000) ∧
      ControlsOk sBadGpr (launchAt sBadGpr 0x80001000) ∧ SsaFrameOk sBadGpr (launchAt sBadGpr 0x80001000) ∧
      (∀ pa, ¬ GprPageOk sBadGpr (launchAt sBadGpr 0x80001000) pa) ∧
      translate sBadGpr.paging (tmpGpr sBadGpr.cfg (mode64 sBadGpr) (launchAt sBadGpr 0x80001000)) .readWrite =
        .error 4 :=
  ⟨caller_of rfl rfl rfl, tcsPage_of rfl, narrow_of rfl, controls_of rfl, ssaFrame_ok.mp ⟨[0x80003000], rfl⟩,
    (fun _ h => by have ht := h.translates; rw [sBadGpr_translate] at ht; cases ht), sBadGpr_translate⟩

/-- S64 with a GPR area of 5000 bytes in a frame of two pages. -/
def sCross : State :=
  withSecs { s64 with cfg := { s64.cfg with gprsgxSize := 5000 } } fun c => { c with ssaframesize := 2 }

theorem test_meets_BadGprAreaStops :
    (CallerOk sCross 0x80001000 ∧ TcsPageOk sCross 0x80001000 ∧ NarrowFields sCross (launchAt sCross 0x80001000) ∧
      ControlsOk sCross (launchAt sCross 0x80001000) ∧ SsaFrameOk sCross (launchAt sCross 0x80001000) ∧
      GprPageOk sCross (launchAt sCross 0x80001000) 0x80002C78 ∧ ¬ GprInOnePage sCross (launchAt sCross 0x80001000)) ∧
    (let s := withDsLimit s32 0x10002FFE
     CallerOk s 0x80001000 ∧ TcsPageOk s 0x80001000 ∧ NarrowFields s (launchAt s 0x80001000) ∧
      ControlsOk s (launchAt s 0x80001000) ∧ SsaFrameOk s (launchAt s 0x80001000) ∧
      GprPageOk s (launchAt s 0x80001000) 0x80002F48 ∧ GprInOnePage s (launchAt s 0x80001000) ∧
      ¬ GprInDs s (launchAt s 0x80001000)) :=
  ⟨⟨caller_of rfl rfl rfl, tcsPage_of rfl, narrow_of rfl, controls_of rfl, ssaFrame_ok.mp ⟨[0x80002000], rfl⟩,
      enclavePageCheck_ok.mp rfl, by unfold GprInOnePage; decide⟩,
    caller_of rfl rfl rfl, tcsPage_of rfl, narrow_of rfl, controls_of rfl, ssaFrame_ok.mp ⟨[0x80002000], rfl⟩,
      enclavePageCheck_ok.mp rfl, by unfold GprInOnePage; decide, by unfold GprInDs; decide⟩

/-- A launch that passes every check down to the entry point. -/
structure ReachesEntry (s : State) : Prop where
  caller : CallerOk s 0x80001000
  tcs_page : TcsPageOk s 0x80001000
  narrow : NarrowFields s (launchAt s 0x80001000)
  controls : ControlsOk s (launchAt s 0x80001000)
  ssa : SsaFrameOk s (launchAt s 0x80001000)
  gpr : GprPageOk s (launchAt s 0x80001000) 0x80002F48 ∧ GprInOnePage s (launchAt s 0x80001000) ∧
    GprInDs s (launchAt s 0x80001000)

theorem reaches_of {s : State} (ha : encluAvailable s = true ∧ leafNumber s = eenterLeaf)
    (h1 : callerChecks s = .ok 0x80001000) (h2 : controlChecks s (launchAt s 0x80001000) = .ok ())
    (h3 : ssaPageLoop s (launchAt s 0x80001000) 0 (ssaPageCount s.cfg (launchAt s 0x80001000)) = .ok [0x80002000])
    (h4 : gprAreaCheck s (launchAt s 0x80001000) = .ok 0x80002F48) : ReachesEntry s :=
  have hc := controlChecks_ok.mp h2
  ⟨caller_of h1 ha.1 ha.2, hc.1, hc.2.1, hc.2.2, ssaFrame_ok.mp ⟨_, h3⟩, gprAreaCheck_ok.mp h4⟩

/-- An entry point just above CS.limit, one just above the canonical range, and an FS just above DS.limit. -/
theorem test_meets_BadEntryPointRaisesGp :
    (let s := { s32 with seg := { s32.seg with cs := { s32.seg.cs with limit := 0x10004FFF } } }
     ReachesEntry s ∧ ¬ EntryPointOk s (launchAt s 0x80001000)) ∧
    (let s := withTcs s64 fun t => { t with oentry := 0x10000000000 }
     ReachesEntry s ∧ ¬ EntryPointOk s (launchAt s 0x80001000)) ∧
    (let s := withDsLimit s32 0x10008FFE
     ReachesEntry s ∧ ¬ EntryPointOk s (launchAt s 0x80001000)) :=
  ⟨⟨reaches_of ⟨rfl, rfl⟩ rfl rfl rfl rfl, fun h => absurd (h.target32 rfl) (by decide)⟩,
    ⟨reaches_of ⟨rfl, rfl⟩ rfl rfl rfl rfl, fun h => absurd (h.target64 rfl) (by decide)⟩,
    ⟨reaches_of ⟨rfl, rfl⟩ rfl rfl rfl rfl, fun h => absurd (segmentInDs_iff.mpr (h.fs32 rfl)) (by decide)⟩⟩

/-- A target one above CS.limit; and a target, an FS base and a GS base at the first address that is not canonical. -/
theorem test_meets_BadTargetRaisesGp :
    (let s := { s32 with seg := { s32.seg with cs := { s32.seg.cs with limit := 0x10004FFF } } }
     ReachesEntry s ∧ s.seg.cs.limit.toNat + 1 = (tmpTarget false (launchAt s 0x80001000)).toNat) ∧
    (let s := withTcs s64 fun t =>
       { t with oentry := 0x10000000000, ofsbase := 0x10000000000, ogsbase := 0x10000000000 }
     ReachesEntry s ∧ isCanonical s.cfg (tmpTarget true (launchAt s 0x80001000)) = false ∧
      isCanonical s.cfg (tmpFsBase true (launchAt s 0x80001000)) = false ∧
      isCanonical s.cfg (tmpGsBase true (launchAt s 0x80001000)) = false) :=
  ⟨⟨reaches_of ⟨rfl, rfl⟩ rfl rfl rfl rfl, by decide⟩, reaches_of ⟨rfl, rfl⟩ rfl rfl rfl rfl, by decide⟩

theorem test_meets_ActiveTcsRaisesGp :
    ReachesEntry (withTcs s64 fun t => { t with state := .active }) ∧
      (tcsAt (withTcs s64 fun t => { t with state := .active }).epc 0x80001000).state = .active :=
  ⟨reaches_of ⟨rfl, rfl⟩ rfl rfl rfl rfl, rfl⟩

/-- The shadow-stack enclave with a save page of another type (vector T6). -/
def sBadCet : State := withPage sCet 0x8000A fun e => { e with pt := .reg }

theorem test_meets_BadCetSavePageFaults :
    ReachesEntry sBadCet ∧ EntryPointOk sBadCet (launchAt sBadCet 0x80001000) ∧
      ¬ CetSaveOk sBadCet (launchAt sBadCet 0x80001000) := by
  refine ⟨reaches_of ⟨rfl, rfl⟩ rfl rfl rfl rfl, (entryChecks_ok (u := ())).mp rfl, fun h => ?_⟩
  obtain ⟨pa, h⟩ := h rfl
  have ht := h.translates
  have : translate sBadCet.paging (tmpCetSavePage (mode64 sBadCet) (launchAt sBadCet 0x80001000)) .readWrite =
      .ok 0x8000A000 := rfl
  rw [this] at ht
  cases ht
  exact absurd h.type (by decide)

/-- The shadow-stack enclave whose save page is not mapped. -/
def sNoCetPage : State := { sCet with paging := { sCet.paging with pages := sCet.paging.pages.take 4 } }

theorem test_meets_BadCetSavePageFaults_unmapped :
    ReachesEntry sNoCetPage ∧ EntryPointOk sNoCetPage (launchAt sNoCetPage 0x80001000) ∧
      ¬ CetSaveOk sNoCetPage (launchAt sNoCetPage 0x80001000) ∧
      translate sNoCetPage.paging (tmpCetSavePage (mode64 sNoCetPage) (launchAt sNoCetPage 0x80001000)) .readWrite =
        .error 4 := by
  have he : translate sNoCetPage.paging
      (tmpCetSavePage (mode64 sNoCetPage) (launchAt sNoCetPage 0x80001000)) .readWrite = .error 4 := rfl
  refine ⟨reaches_of ⟨rfl, rfl⟩ rfl rfl rfl rfl, (entryChecks_ok (u := ())).mp rfl, fun h => ?_, he⟩
  obtain ⟨pa, h⟩ := h rfl
  have ht := h.translates
  rw [he] at ht
  cases ht

theorem test_meets_PageFaultAddresses :
    exec .enclu (withRbx s64 0x7F0000007000) = .fault (.pf 0x7F0000007000 4) ∧
      exec .enclu sBadCet = .fault (.pf 0x7F000000A000 (Config.pfec .wrongPage .readWrite)) := ⟨rfl, rfl⟩

theorem test_meets_EncluRefusesOnlyByTheseNames :
    exec .enclu (withRax s64 3) = .refused .otherLeaf ∧
      exec .enclu (withTcs s32 fun t => { t with oentry := 0x100000000 }) = .refused .wideFieldIn32BitMode ∧
      exec .enclu sCross = .refused .gprAreaCrossesPage := ⟨rfl, rfl, rfl⟩

/-! ### States that enter -/

theorem ready_of {s : State} (ha : encluAvailable s = true ∧ leafNumber s = eenterLeaf)
    (h1 : callerChecks s = .ok 0x80001000) (h2 : controlChecks s (launchAt s 0x80001000) = .ok ())
    (h3 : ssaPageLoop s (launchAt s 0x80001000) 0 (ssaPageCount s.cfg (launchAt s 0x80001000)) = .ok [0x80002000])
    (h4 : gprAreaCheck s (launchAt s 0x80001000) = .ok 0x80002F48) (h5 : entryChecks s (launchAt s 0x80001000) = .ok ())
    (r : Option Word) (h6 : cetSaveCheck s (launchAt s 0x80001000) = .ok r) : EntryReady s 0x80001000 0x80002F48 := by
  have h := reaches_of ha h1 h2 h3 h4
  refine ⟨h.caller, h.tcs_page, h.narrow, h.controls, h.ssa, h.gpr.1, h.gpr.2.1, h.gpr.2.2, entryChecks_ok.mp h5,
    fun hon => ?_⟩
  rcases cetSaveCheck_ok.mp h6 with ⟨hoff, _⟩ | ⟨_, pa, hpa, _⟩
  · rw [hon] at hoff; cases hoff
  · exact ⟨pa, hpa⟩

/-- S64 meets the hypothesis of every statement about an entry; it is an opt-out entry. -/
theorem test_meets_EntryReady_64 :
    EntryReady s64 0x80001000 0x80002F48 ∧ ¬ EntersOptIn s64 0x80001000 ∧ s64.cfg.gprAreaOk = true :=
  ⟨ready_of ⟨rfl, rfl⟩ rfl rfl rfl rfl rfl none rfl, by unfold EntersOptIn; decide, rfl⟩

theorem test_meets_EntryReady_32 : mode64 s32 = false ∧ EntryReady s32 0x80001000 0x80002F48 :=
  ⟨rfl, ready_of ⟨rfl, rfl⟩ rfl rfl rfl rfl rfl none rfl⟩

/-- S64 with an opt-in TCS and TF set (vector V7). -/
def sOptIn : State := withTcs { s64 with rflags := 0x102 } fun t => { t with flags := 1 }

/-- Vector M4: with FLAGS = 1 nothing of performance monitoring changes. -/
theorem test_opt_in_leaves_perfmon :
    let s := { sOptIn with perf := { sOptIn.perf with fixedCtr1 := 7, fixedCtr2 := 9, active := true } }
    (after (exec .enclu s)).map State.perf = some s.perf := by rfl

theorem test_meets_EntryReady_opt_in : EntryReady sOptIn 0x80001000 0x80002F48 ∧ EntersOptIn sOptIn 0x80001000 :=
  ⟨ready_of ⟨rfl, rfl⟩ rfl rfl rfl rfl rfl none rfl, rfl⟩

theorem test_meets_EntryReady_cet :
    EntryReady sCet 0x80001000 0x80002F48 ∧ cetOn sCet.cfg (launchAt sCet 0x80001000) = true :=
  ⟨ready_of ⟨rfl, rfl⟩ rfl rfl rfl rfl rfl (some 0x8000A000) rfl, rfl⟩

/-- A one-byte breakpoint. -/
def byteAt (k : BreakpointKind) (a : Word) : Breakpoint := { kind := k, addr := a, length := 1, suppressed := false }

/-- Below, at both ends of and above the ELRANGE of S64 (log 27). -/
theorem test_overlap_boundaries :
    let r : ElRange := { base := 0x7F0000000000, size := 0x100000 }
    [0x7EFFFFFFFFFF, 0x7F0000000000, 0x7F00000FFFFF, 0x7F0000100000].map (fun a => overlapsElrange r (byteAt .code a)) =
      [false, true, true, false] := by decide

/-- Vectors V11 to V14 on the ELRANGE of S64: suppressed with FLAGS = 0, and with FLAGS = 1. -/
theorem test_overlap_vectors :
    let r : ElRange := { base := 0x7F0000000000, size := 0x100000 }
    [byteAt .code 0x401003, byteAt .code 0x7F0000005000, byteAt .data 0x7F0000008000, byteAt .data 0x7FFD0000FF00].map
        (fun b => (suppresses r false b, suppresses r true b)) =
      [(true, true), (true, false), (true, false), (false, false)] := by decide

theorem test_meets_EntryReady_without_osxsave :
    EntryReady { s64 with sys := { s64.sys with cr4 := 0x200 } } 0x80001000 0x80002F48 :=
  ready_of ⟨rfl, rfl⟩ rfl rfl rfl rfl rfl none rfl

/-- A second logical processor at the same TCS after the first has entered (program P4). -/
theorem test_meets_AtMostOneEntryPerTcs : ∃ t u : State,
    exec .enclu s64 = .next t ∧ u.epc = t.epc ∧ translate u.paging (tcsLa u) .readWrite = .ok 0x80001000 ∧
      pageNumber 0x80001000 = pageNumber t.sgx.tcsPa :=
  ⟨_, { s64 with epc := putTcs s64.epc 0x80001000 { tcs0 with state := .active, aep := 0x402000 } }, rfl, rfl, rfl, rfl⟩

theorem test_meets_StepsOnlyEnterEnclaveMode : ∃ t, step sFetch = .next t := ⟨_, rfl⟩

theorem test_meets_UpperHalvesAreInvisibleIn32BitMode :
    mode64 s32 = false ∧
      ∀ r, (gprGet { s32.gpr with rbx := 0x10001000, rax := 2 } r).setWidth 32 = (gprGet s32.gpr r).setWidth 32 :=
  ⟨rfl, fun r => by cases r <;> decide⟩

theorem test_meets_EveryStepKeepsTheInvariant : Inv sFetch ∧ ∃ t, step sFetch = .next t :=
  ⟨⟨by decide, by decide, by decide, by decide, by decide, fun h => by cases h⟩, _, rfl⟩

theorem test_meets_StoreIsReadBackLittleEndian : Memory.wf sFetch.mem ∧ Memory.wf State.reset.mem := by decide

end Sys2Proof.Tests
end

/-! PROOFS. The statements of spec/40_eenter_overview.md: a bad entry point (R111), the arrival at the entry point (R110)
and the exchange of XCR0 (R118). Before them, the facts about the model that they turn on: how far the checks get, what
ENCLU answers then, and what a committed entry reads as. -/

namespace Sys2Proof.Proofs.Overview

open Sys2Proof.Machine Sys2Proof.Safety Sys2Proof.Laws

variable {s : State} {tcsPa gprPa : Word}

/-! ### How far the checks get -/

/-- The conditions of the checks up to the SSA frame and its GPR area (41 R140 to R174): the first eight of
`EntryReady`. -/
structure FrameVerified (s : State) (tcsPa gprPa : Word) : Prop where
  caller : CallerOk s tcsPa
  tcs_page : TcsPageOk s tcsPa
  narrow : NarrowFields s (launchAt s tcsPa)
  controls : ControlsOk s (launchAt s tcsPa)
  ssa : SsaFrameOk s (launchAt s tcsPa)
  gpr_page : GprPageOk s (launchAt s tcsPa) gprPa
  gpr_one_page : GprInOnePage s (launchAt s tcsPa)
  gpr_in_ds : GprInDs s (launchAt s tcsPa)

theorem frameVerified_of_ready (h : EntryReady s tcsPa gprPa) : FrameVerified s tcsPa gprPa :=
  ⟨h.caller, h.tcs_page, h.narrow, h.controls, h.ssa, h.gpr_page, h.gpr_one_page, h.gpr_in_ds⟩

/-- With the SSA frame verified, what is left of EENTER's checks is the entry checks and the CET save page; the entry they
hand on holds the launch, the pages of the loop and the GPR area found before (40 R131). -/
theorem eenterChecks_of_frameVerified (h : FrameVerified s tcsPa gprPa) :
    ∃ pages, ssaPageLoop s (launchAt s tcsPa) 0 (ssaPageCount s.cfg (launchAt s tcsPa)) = .ok pages ∧
      eenterChecks s = do
        entryChecks s (launchAt s tcsPa)
        let cetPa ← cetSaveCheck s (launchAt s tcsPa)
        return { launch := launchAt s tcsPa, xsavePages := pages, gprPa := gprPa, cetSaveAreaPa := cetPa } := by
  have hcaller : callerChecks s = .ok tcsPa :=
    (callerChecks_ok h.caller.callable.available h.caller.callable.leaf).mpr h.caller
  have hcontrols : controlChecks s (launchAt s tcsPa) = .ok () :=
    controlChecks_ok.mpr ⟨h.tcs_page, h.narrow, h.controls⟩
  obtain ⟨pages, hpages⟩ := ssaFrame_ok.mpr h.ssa
  have hgpr : gprAreaCheck s (launchAt s tcsPa) = .ok gprPa :=
    gprAreaCheck_ok.mpr ⟨h.gpr_page, h.gpr_one_page, h.gpr_in_ds⟩
  refine ⟨pages, hpages, ?_⟩
  rw [eenterChecks, bind_of_ok hcaller, bind_of_ok hcontrols, bind_of_ok hpages, bind_of_ok hgpr]

/-- The CET check passes where its save page is admissible (41 R185). -/
theorem cetSaveCheck_passes {L : Launch} (h : CetSaveOk s L) : ∃ cetPa, cetSaveCheck s L = .ok cetPa := by
  cases hon : cetOn s.cfg L with
  | false => exact ⟨none, cetSaveCheck_ok.mpr (.inl ⟨hon, rfl⟩)⟩
  | true =>
    obtain ⟨pa, hpa⟩ := h hon
    exact ⟨_, cetSaveCheck_ok.mpr (.inr ⟨hon, pa, hpa, rfl⟩)⟩

/-! ### What ENCLU answers -/

/-- With the SSA frame verified, an entry point, FS, GS, TCS state or CET request that is not admissible raises #GP(0)
(41 R175 to R183). -/
theorem exec_enclu_gp_of_bad_entryPoint (h : FrameVerified s tcsPa gprPa)
    (hbad : ¬ EntryPointOk s (launchAt s tcsPa)) : exec .enclu s = .fault .gp0 := by
  have hraise : entryChecks s (launchAt s tcsPa) = .error raiseGp :=
    entryChecks_onlyGp.raises (mt entryChecks_ok.mp hbad)
  obtain ⟨pages, -, hchecks⟩ := eenterChecks_of_frameVerified h
  rw [bind_of_error hraise] at hchecks
  exact exec_enclu_stop h.caller.callable.available h.caller.callable.leaf hchecks

/-- When ready, ENCLU commits the entry that holds the launch, the GPR area and what the SSA loop and the CET check
found (40 R131, 42 R200). -/
theorem exec_enclu_of_ready (h : EntryReady s tcsPa gprPa) :
    ∃ pages cetPa, ssaPageLoop s (launchAt s tcsPa) 0 (ssaPageCount s.cfg (launchAt s tcsPa)) = .ok pages ∧
      cetSaveCheck s (launchAt s tcsPa) = .ok cetPa ∧
      exec .enclu s = .next (commitEntry s
        { launch := launchAt s tcsPa, xsavePages := pages, gprPa := gprPa, cetSaveAreaPa := cetPa }) := by
  obtain ⟨pages, hpages, hchecks⟩ := eenterChecks_of_frameVerified (frameVerified_of_ready h)
  have hentry : entryChecks s (launchAt s tcsPa) = .ok () := entryChecks_ok.mpr h.entry_point
  obtain ⟨cetPa, hcet⟩ := cetSaveCheck_passes h.cet_save
  rw [bind_of_ok hentry, bind_of_ok hcet] at hchecks
  exact ⟨pages, cetPa, hpages, hcet,
    exec_enclu_next.mpr ⟨h.caller.callable.available, h.caller.callable.leaf, _, hchecks, rfl⟩⟩

/-! ### What a committed entry reads as -/

/-- An entry keeps the operating mode: it writes neither IA32_EFER nor CS (60_exceptions R270). -/
@[simp] theorem mode64_commitEntry (s : State) (e : Entry) : mode64 (commitEntry s e) = mode64 s := by
  simp [mode64]

/-- The instruction pointer of a committed entry is `TMP_TARGET`; the free upper half that 32-bit mode leaves in RIP is
not read (42 R210; log 9). -/
theorem ip_commitEntry (s : State) (e : Entry) : ip (commitEntry s e) = tmpTarget (mode64 s) e.launch := by
  simp [ip, commitRip, tmpTarget]

/-- With CR4.OSXSAVE a legal XFRM asks for no feature outside XCR0 (41 R164). -/
theorem xfrm_subset_xcr0 {L : Launch} (h : XfrmLegal s L) (hos : cr4Osxsave s.sys.cr4 = true) :
    L.secs.xfrm &&& s.sys.xcr0 = L.secs.xfrm := by
  rwa [XfrmLegal, if_pos hos] at h

end Sys2Proof.Proofs.Overview

namespace Sys2Proof.Proofs

open Sys2Proof.Machine Sys2Proof.Safety Sys2Proof.Laws Sys2Proof.Proofs.Overview

/-- Settles O29: each of the named defects contradicts one field of `EntryPointOk`. -/
theorem badTargetRaisesGp : Obligations.BadTargetRaisesGp := by
  intro s tcsPa gprPa hcaller htcs hnarrow hcontrols hssa hpage hone hds hbad
  refine exec_enclu_gp_of_bad_entryPoint ⟨hcaller, htcs, hnarrow, hcontrols, hssa, hpage, hone, hds⟩ fun hok => ?_
  obtain ⟨hm, hlimit⟩ | ⟨hm, htarget | hfs | hgs⟩ := hbad
  · exact Nat.not_le_of_lt hlimit (hok.target32 hm)
  · simp [hok.target64 hm] at htarget
  · obtain ⟨hfsOk, -⟩ := hok.bases64 hm
    simp [hfsOk] at hfs
  · obtain ⟨-, hgsOk⟩ := hok.bases64 hm
    simp [hgsOk] at hgs

/-- Settles O35: the instruction pointer of the committed entry is `TMP_TARGET`, which is the sum that is asked for. -/
theorem entryArrivesAtTheEntryPoint : Obligations.EntryArrivesAtTheEntryPoint := by
  intro s tcsPa gprPa hready
  obtain ⟨pages, cetPa, -, -, hexec⟩ := exec_enclu_of_ready hready
  refine ⟨_, hexec, by simp, by simp, ?_⟩
  rw [ip_commitEntry, tmpTarget, BitVec.add_comm]

/-- Settles O40: the two cases of CR4.OSXSAVE are those of the commit, and the subset is what the XFRM check asked. -/
theorem entrySwapsXcr0 : Obligations.EntrySwapsXcr0 := by
  intro s tcsPa gprPa hready
  obtain ⟨pages, cetPa, -, -, hexec⟩ := exec_enclu_of_ready hready
  refine ⟨_, hexec, fun hos => ?_, fun hos => by simp [hos]⟩
  have hsubset := xfrm_subset_xcr0 hready.controls.xfrm_legal hos
  simpa [hos] using hsubset

end Sys2Proof.Proofs

/-! PROOFS. The statements of spec/41_eenter_checks.md: a misaligned TCS operand (R145), an AEP that is not canonical (R149),
a bad TCS page (R153 to R156), offsets, flags, mode and SSA frames that are not admissible (R157 to R166), and an active TCS
(R180). Before them, what each part of the checks raises, once the parts before it pass. -/

namespace Sys2Proof.Proofs.EenterChecks

open Sys2Proof.Machine Sys2Proof.Safety Sys2Proof.Laws

variable {s : State} {tcsPa : Word}

/-! ### The caller's side -/

theorem checkBases_onlyGp : RaisesOnlyGp (checkBases s) :=
  bind_onlyGp raiseIf_onlyGp fun _ => bind_onlyGp raiseIf_onlyGp fun _ => bind_onlyGp raiseIf_onlyGp fun _ => raiseIf_onlyGp

/-- The checks down to DS.limit raise only #GP(0), so a bad operand raises that, whichever of them finds it first
(41 R140 to R147). -/
theorem callerChecks_gp_of_bad_operand (hbad : ¬ OperandOk s) : callerChecks s = .error raiseGp := by
  rw [callerChecks_split]
  refine bind_of_error (RaisesOnlyGp.raises ?_ fun hpass => hbad ?_)
  · exact bind_onlyGp raiseIf_onlyGp fun _ => bind_onlyGp raiseIf_onlyGp fun _ => bind_onlyGp checkBases_onlyGp fun _ =>
      bind_onlyGp raiseIf_onlyGp fun _ => raiseIf_onlyGp
  · simp only [check_bind_ok] at hpass
    obtain ⟨_, -, _, hds, _, hbases, _, haligned, hlimit⟩ := hpass
    exact operandChecks_ok.mp ⟨⟨_, hds⟩, ⟨_, hbases⟩, ⟨_, haligned⟩, ⟨_, hlimit⟩⟩

/-- Once the TCS operand is acceptable and resolves, what is left of the caller's checks is the AEP and the locks
(41 R149 to R152). -/
theorem callerChecks_of_resolved (hcall : Callable s) (hop : OperandOk s) (hcan : OperandCanonical s)
    (hres : TcsResolves s tcsPa) :
    callerChecks s = do
      checkAepCanonical s
      checkConcurrency s
      return tcsPa := by
  obtain ⟨⟨_, hds⟩, ⟨_, hbases⟩, ⟨_, haligned⟩, ⟨_, hlimit⟩⟩ := operandChecks_ok.mpr hop
  have hout : checkNotInEnclave s = .ok () := checkNotInEnclave_ok.mpr hcall.outside
  have hcanonical : checkTcsCanonical s = .ok () := checkTcsCanonical_ok.mpr hcan
  rw [callerChecks, bind_of_ok hout, bind_of_ok hds, bind_of_ok hbases, bind_of_ok haligned, bind_of_ok hlimit,
    bind_of_ok hcanonical, bind_of_ok (resolveTcs_ok.mpr hres)]

/-- What the caller's checks raise is what ENCLU answers. -/
theorem exec_enclu_of_callerChecks_error {st : Stop} (ha : encluAvailable s = true) (hl : leafNumber s = eenterLeaf)
    (h : callerChecks s = .error st) : exec .enclu s = raiseStop st :=
  exec_enclu_stop ha hl (bind_of_error h)

/-! ### The TCS page, the SECS and the control registers -/

/-- With the caller's side right, what the control checks raise is what ENCLU answers. -/
theorem exec_enclu_of_controlChecks_error {st : Stop} (hcaller : CallerOk s tcsPa)
    (h : controlChecks s (launchAt s tcsPa) = .error st) : exec .enclu s = raiseStop st := by
  have hpass : callerChecks s = .ok tcsPa :=
    (callerChecks_ok hcaller.callable.available hcaller.callable.leaf).mpr hcaller
  refine exec_enclu_stop hcaller.callable.available hcaller.callable.leaf ?_
  rw [eenterChecks, bind_of_ok hpass, bind_of_error h]

/-- The check of the TCS page raises nothing but a page fault at the TCS address (41 R153 to R156). -/
theorem checkTcsPage_error {e : Stop} (h : checkTcsPage s tcsPa = .error e) :
    ∃ code, e = .fault (.pf (tcsLa s) code) := by
  simp only [checkTcsPage, check_bind_error, raiseIf_error] at h
  obtain ⟨-, rfl⟩ | ⟨_, -, ⟨-, rfl⟩ | ⟨_, -, ⟨-, rfl⟩ | ⟨_, -, -, rfl⟩⟩⟩ := h <;> exact ⟨_, rfl⟩

/-- A TCS page that is not admissible raises a page fault at the TCS address (41 R153 to R156). -/
theorem exec_enclu_pf_of_bad_tcsPage (hcaller : CallerOk s tcsPa) (hbad : ¬ TcsPageOk s tcsPa) :
    ∃ code, exec .enclu s = .fault (.pf (tcsLa s) code) := by
  cases hpage : checkTcsPage s tcsPa with
  | ok u => exact absurd (checkTcsPage_ok.mp hpage) hbad
  | error e =>
    obtain ⟨code, rfl⟩ := checkTcsPage_error hpage
    exact ⟨code, exec_enclu_of_controlChecks_error hcaller (bind_of_error hpage)⟩

theorem checkXfrm_onlyGp {L : Launch} : RaisesOnlyGp (checkXfrm s L) := by
  unfold checkXfrm
  refine bind_onlyGp raiseIf_onlyGp fun _ => ?_
  split <;> exact raiseIf_onlyGp

/-- With the TCS page verified and no field refused, the checks left on the controls raise only #GP(0), so controls that do
not agree raise that, whichever check finds it first (41 R157 to R166). -/
theorem controlChecks_gp_of_bad_controls {L : Launch} (hpage : TcsPageOk s L.tcsPa) (hnarrow : NarrowFields s L)
    (hbad : ¬ ControlsOk s L) : controlChecks s L = .error raiseGp := by
  refine RaisesOnlyGp.raises ?_ fun hpass => hbad (controlChecks_ok.mp hpass).2.2
  have hpageOk : checkTcsPage s L.tcsPa = .ok () := checkTcsPage_ok.mpr hpage
  have hnarrowOk : checkNarrow (mode64 s) L = .ok () := checkNarrow_ok.mpr hnarrow
  rw [controlChecks, bind_of_ok hpageOk, bind_of_ok hnarrowOk]
  have hoffsets : RaisesOnlyGp (checkOffsets L) := bind_onlyGp raiseIf_onlyGp fun _ => raiseIf_onlyGp
  have henclave : RaisesOnlyGp (checkEnclave (mode64 s) L) := bind_onlyGp raiseIf_onlyGp fun _ => raiseIf_onlyGp
  exact bind_onlyGp hoffsets fun _ => bind_onlyGp raiseIf_onlyGp fun _ => bind_onlyGp henclave fun _ =>
    bind_onlyGp checkXfrm_onlyGp fun _ => bind_onlyGp raiseIf_onlyGp fun _ => raiseIf_onlyGp

/-- A TCS, a SECS or control registers that do not agree raise #GP(0), once the TCS page is verified and no field is
refused (41 R157 to R166). -/
theorem exec_enclu_gp_of_bad_controls (hcaller : CallerOk s tcsPa) (hpage : TcsPageOk s tcsPa)
    (hnarrow : NarrowFields s (launchAt s tcsPa)) (hbad : ¬ ControlsOk s (launchAt s tcsPa)) :
    exec .enclu s = .fault .gp0 :=
  exec_enclu_of_controlChecks_error hcaller (controlChecks_gp_of_bad_controls hpage hnarrow hbad)

end Sys2Proof.Proofs.EenterChecks

namespace Sys2Proof.Proofs

open Sys2Proof.Machine Sys2Proof.Safety Sys2Proof.Laws Sys2Proof.Proofs.Overview Sys2Proof.Proofs.EenterChecks

/-- Settles O12: a misaligned operand is not acceptable, and every check that it can fail first raises the same fault. -/
theorem misalignedTcsRaisesGp : Obligations.MisalignedTcsRaisesGp := by
  intro s ha hl hmis
  have hbad : ¬ OperandOk s := fun hok => hmis (isAligned_4096.mp hok.aligned)
  exact exec_enclu_of_callerChecks_error ha hl (callerChecks_gp_of_bad_operand hbad)

/-- Settles O16: with the TCS resolved, the AEP is the next check. -/
theorem nonCanonicalAepRaisesGp : Obligations.NonCanonicalAepRaisesGp := by
  intro s tcsPa hcall hop hcan hres hm hrcx
  have hreg : isCanonical s.cfg (reg s .rcx) = false := by simpa [reg, hm, gprGet] using hrcx
  have hraise : checkAepCanonical s = .error raiseGp := raiseIf_error.mpr ⟨⟨hm, hreg⟩, rfl⟩
  refine exec_enclu_of_callerChecks_error (st := raiseGp) hcall.available hcall.leaf ?_
  rw [callerChecks_of_resolved hcall hop hcan hres, bind_of_error hraise]

/-- Settles O18: each of the named defects contradicts one field of `TcsPageOk`. -/
theorem badTcsPageFaults : Obligations.BadTcsPageFaults := by
  intro s tcsPa hcaller hbad
  refine exec_enclu_pf_of_bad_tcsPage hcaller fun hok => ?_
  obtain hvalid | hblocked | haddress | htype | hpending | hmodified := hbad
  · simp [hok.valid] at hvalid
  · simp [hok.not_blocked] at hblocked
  · exact haddress hok.own_address
  · exact htype hok.type
  · simp [hok.not_pending] at hpending
  · simp [hok.not_modified] at hmodified

/-- Settles O21: each misaligned offset contradicts one field of `ControlsOk`. -/
theorem misalignedOffsetsRaiseGp : Obligations.MisalignedOffsetsRaiseGp := by
  intro s tcsPa hcaller hpage hnarrow hbad
  refine exec_enclu_gp_of_bad_controls hcaller hpage hnarrow fun hok => ?_
  obtain hossa | hfs | hgs := hbad
  · exact hossa hok.ossa_aligned
  · exact hfs hok.ofsbase_aligned
  · exact hgs hok.ogsbase_aligned

/-- Settles O22: each mismatch contradicts one field of `ControlsOk`. -/
theorem controlMismatchRaisesGp : Obligations.ControlMismatchRaisesGp := by
  intro s tcsPa hcaller hpage hnarrow hbad
  refine exec_enclu_gp_of_bad_controls hcaller hpage hnarrow fun hok => ?_
  obtain hmode | hosfxsr | ⟨hoptOut, hnotify⟩ := hbad
  · exact hmode hok.mode_matches
  · simp [hok.osfxsr] at hosfxsr
  · exact hnotify (hok.aexnotify hoptOut)

/-- Settles O23: FLAGS below 4 have no reserved bit. -/
theorem reservedTcsFlagsRaiseGp : Obligations.ReservedTcsFlagsRaiseGp := by
  intro s tcsPa hcaller hpage hnarrow hreserved
  exact exec_enclu_gp_of_bad_controls hcaller hpage hnarrow fun hok =>
    hreserved (flagsReserved_zero.mpr hok.flags_reserved)

/-- Settles O24: a free frame is one of the controls, all of which come before the SSA loop. -/
theorem noFreeSsaFrameRaisesGp : Obligations.NoFreeSsaFrameRaisesGp := by
  intro s tcsPa hcaller hpage hnarrow hfull
  exact exec_enclu_gp_of_bad_controls hcaller hpage hnarrow fun hok => Nat.not_lt_of_le hfull hok.free_frame

/-- Settles O30: an active TCS contradicts the `inactive` field of `EntryPointOk`. -/
theorem activeTcsRaisesGp : Obligations.ActiveTcsRaisesGp := by
  intro s tcsPa gprPa hcaller hpage hnarrow hcontrols hssa hgpr hone hds hactive
  refine exec_enclu_gp_of_bad_entryPoint ⟨hcaller, hpage, hnarrow, hcontrols, hssa, hgpr, hone, hds⟩ fun hok => ?_
  have hinactive : (tcsAt s.epc tcsPa).state = .inactive := hok.inactive
  simp [hinactive] at hactive

end Sys2Proof.Proofs

/-! PROOFS. The statements of spec/42_eenter_commit.md: the hidden registers that save FS and GS (R206, R207) and those that
name the enclave and the thread (R202, R203). When ready, ENCLU commits the entry of the launch at `tcsPa`; what it leaves in
the hidden registers is read off that entry. -/

namespace Sys2Proof.Proofs.EenterCommit

open Sys2Proof.Machine

/-- `CR_ELRANGE` spans the enclave that the SECS of the launch describes (42 R202). -/
theorem enclaveRange_eq (e : Entry) :
    enclaveRange e = { base := e.launch.secs.baseaddr, size := e.launch.secs.size } := rfl

end Sys2Proof.Proofs.EenterCommit

namespace Sys2Proof.Proofs

open Sys2Proof.Machine Sys2Proof.Safety Sys2Proof.Laws Sys2Proof.Proofs.Overview Sys2Proof.Proofs.EenterCommit

/-- Settles O38: the commit copies FS and GS as they were at launch, before it loads the enclave's. -/
theorem entrySavesFsAndGs : Obligations.EntrySavesFsAndGs := by
  intro s tcsPa gprPa hready
  obtain ⟨pages, cetPa, -, -, hexec⟩ := exec_enclu_of_ready hready
  refine ⟨_, hexec, ?_, ?_⟩
  · rw [commitEntry_sgx, commitSgx_saveFs]
  · rw [commitEntry_sgx, commitSgx_saveGs]

/-- Settles O42: the launch of the committed entry is the one at `tcsPa`, so its SECS is the one that the EPCM entry of the
TCS page names; RBX is read at the width of the mode. -/
theorem entryNamesTheEnclave : Obligations.EntryNamesTheEnclave := by
  intro s tcsPa gprPa hready
  obtain ⟨pages, cetPa, -, -, hexec⟩ := exec_enclu_of_ready hready
  refine ⟨_, hexec, ?_, ?_, ?_, ?_⟩
  · rw [commitEntry_sgx, commitSgx_activeSecs, launchAt_tmpSecs]
  · rw [commitEntry_sgx, commitSgx_elrange, enclaveRange_eq]
  · rw [commitEntry_sgx, commitSgx_tcsPa, launchAt_tcsPa]
  · rw [commitEntry_sgx, commitSgx_tcsLa]

end Sys2Proof.Proofs

/-! PROOFS. What EENTER's checks can answer, as one inversion: when every check passes the launch is ready, and when one
raises, the stop is one of a short list, each with its cause (40_eenter_overview R131, 41_eenter_checks). -/

namespace Sys2Proof.Proofs.Inversion

open Sys2Proof.Machine Sys2Proof.Safety Sys2Proof.Laws

variable {s t : State} {tcsPa : Word}

/-! ### Every check passes -/

/-- The entry that the checks hand on is that of a ready launch (41 R187). -/
theorem eenterChecks_ready {e : Entry} (ha : encluAvailable s = true) (hl : leafNumber s = eenterLeaf)
    (h : eenterChecks s = .ok e) :
    ∃ tcsPa, e.launch = launchAt s tcsPa ∧ EntryReady s tcsPa e.gprPa := by
  simp only [eenterChecks, check_bind_ok, check_pure_ok] at h
  obtain ⟨tcsPa, hcaller, _, hcontrols, pages, hpages, gprPa, hgpr, _, hentry, cetPa, hcet, rfl⟩ := h
  obtain ⟨htcs, hnarrow, hcontrols⟩ := controlChecks_ok.mp hcontrols
  obtain ⟨hpage, hone, hds⟩ := gprAreaCheck_ok.mp hgpr
  refine ⟨tcsPa, rfl, (callerChecks_ok ha hl).mp hcaller, htcs, hnarrow, hcontrols, ssaFrame_ok.mp ⟨pages, hpages⟩,
    hpage, hone, hds, entryChecks_ok.mp hentry, fun hon => ?_⟩
  obtain ⟨hoff, -⟩ | ⟨-, pa, hpa, -⟩ := cetSaveCheck_ok.mp hcet
  · simp [hon] at hoff
  · exact ⟨pa, hpa⟩

/-- ENCLU answers a next state only by committing the entry of a ready launch (41 R187, 42 R200). -/
theorem exec_enclu_next_ready (h : exec .enclu s = .next t) :
    ∃ e tcsPa, e.launch = launchAt s tcsPa ∧ EntryReady s tcsPa e.gprPa ∧ t = commitEntry s e := by
  obtain ⟨ha, hl, e, hchecks, rfl⟩ := exec_enclu_next.mp h
  obtain ⟨tcsPa, hlaunch, hready⟩ := eenterChecks_ready ha hl hchecks
  exact ⟨e, tcsPa, hlaunch, hready, rfl⟩

/-- A step goes on only by committing the entry of a ready launch, with no event due before it (20_memory R78). -/
theorem step_next_ready (h : step s = .next t) :
    ∃ e tcsPa, e.launch = launchAt s tcsPa ∧ EntryReady s tcsPa e.gprPa ∧ t = commitEntry s e := by
  obtain ⟨-, i, -, hexec⟩ := step_next h
  cases i with
  | enclu => exact exec_enclu_next_ready hexec

/-! ### A check raises -/

/-- The ways EENTER's checks can stop a launch, each with what it says of the launch (60_exceptions R251 to R253,
41 R141, R172). -/
inductive EenterStops (s : State) : Stop → Prop where
  | gp : EenterStops s raiseGp
  | tcsPage (code : Dword) : EenterStops s (.fault (.pf (tcsLa s) code))
  | wideField {tcsPa : Word} (caller : CallerOk s tcsPa) (page : TcsPageOk s tcsPa) (mode : mode64 s = false)
      (wide : ¬ NarrowFields s (launchAt s tcsPa)) : EenterStops s (.refuse .wideFieldIn32BitMode)
  | ssaPage {tcsPa : Word} {n : Nat} (code : Dword) (caller : CallerOk s tcsPa)
      (visited : n < ssaPageCount s.cfg (launchAt s tcsPa)) :
      EenterStops s (.fault (.pf (tmpSsaPage (mode64 s) (launchAt s tcsPa) n) code))
  | gprPage {tcsPa : Word} (code : Dword) (caller : CallerOk s tcsPa) :
      EenterStops s (.fault (.pf (tmpGpr s.cfg (mode64 s) (launchAt s tcsPa)) code))
  | gprCrosses {tcsPa : Word} (caller : CallerOk s tcsPa) (page : TcsPageOk s tcsPa)
      (crosses : ¬ GprInOnePage s (launchAt s tcsPa)) : EenterStops s (.refuse .gprAreaCrossesPage)
  | cetPage {tcsPa : Word} (code : Dword) (caller : CallerOk s tcsPa) (on : cetOn s.cfg (launchAt s tcsPa) = true) :
      EenterStops s (.fault (.pf (tmpCetSavePage (mode64 s) (launchAt s tcsPa)) code))

/-- Resolving an address in the EPC raises nothing but a page fault there (20_memory R63, R64). -/
theorem resolveEpc_error {la : Word} {st : Stop} (h : resolveEpc s la = .error st) :
    ∃ code, st = .fault (.pf la code) := by
  simp only [resolveEpc, check_bind_error, translateOrRaise_error, raiseIf_error, check_pure_error] at h
  obtain ⟨code, -, rfl⟩ | ⟨pa, -, ⟨-, rfl⟩ | ⟨_, -, hfalse⟩⟩ := h
  · exact ⟨code, rfl⟩
  · exact ⟨_, rfl⟩
  · exact hfalse.elim

/-- The TCS address that is not canonical takes #GP(0) or a page fault there (41 R148; log 11). -/
theorem checkTcsCanonical_error {st : Stop} (h : checkTcsCanonical s = .error st) :
    st = raiseGp ∨ ∃ code, st = .fault (.pf (tcsLa s) code) := by
  obtain ⟨⟨hm, -⟩, rfl⟩ := raiseIf_error.mp h
  have hla : tcsLa s = reg s .rbx := by simp [tcsLa, dsAddr, hm]
  rw [hla]
  split
  · exact .inl rfl
  · exact .inr ⟨_, rfl⟩

/-- The operand checks, which come before any look at the TCS address, raise only #GP(0) (41 R140 to R147). -/
theorem operandChecks_onlyGp : RaisesOnlyGp
    (do checkNotInEnclave s; checkDs s; checkBases s; checkTcsAligned s; checkTcsInDs s) :=
  bind_onlyGp raiseIf_onlyGp fun _ => bind_onlyGp raiseIf_onlyGp fun _ =>
    bind_onlyGp EenterChecks.checkBases_onlyGp fun _ => bind_onlyGp raiseIf_onlyGp fun _ => raiseIf_onlyGp

/-- The locks raise only #GP(0) (41 R151, R152). -/
theorem checkConcurrency_onlyGp : RaisesOnlyGp (checkConcurrency s) :=
  bind_onlyGp raiseIf_onlyGp fun _ => raiseIf_onlyGp

/-- The caller's checks raise #GP(0) or a page fault at the TCS address (41 R140 to R152). -/
theorem callerChecks_stops {st : Stop} (h : callerChecks s = .error st) : EenterStops s st := by
  rw [callerChecks_split, check_bind_error] at h
  obtain hoperand | ⟨_, -, h⟩ := h
  · rw [operandChecks_onlyGp st hoperand]
    exact .gp
  simp only [check_bind_error, check_pure_error, and_false, exists_const, or_false] at h
  obtain hcanonical | ⟨_, -, hresolve | ⟨_, -, haep | ⟨_, -, hlocks⟩⟩⟩ := h
  · obtain rfl | ⟨code, rfl⟩ := checkTcsCanonical_error hcanonical
    · exact .gp
    · exact .tcsPage code
  · obtain ⟨code, rfl⟩ := resolveEpc_error hresolve
    exact .tcsPage code
  · rw [raiseIf_onlyGp st haep]
    exact .gp
  · rw [checkConcurrency_onlyGp st hlocks]
    exact .gp

/-- Fields are wide only in 32-bit mode, and are refused right after the TCS page (41 R141; log 20). -/
theorem controlChecks_refuse_of_wide {L : Launch} (hpage : TcsPageOk s L.tcsPa) (hwide : ¬ NarrowFields s L) :
    mode64 s = false ∧ controlChecks s L = .error (.refuse .wideFieldIn32BitMode) := by
  have hpageOk : checkTcsPage s L.tcsPa = .ok () := checkTcsPage_ok.mpr hpage
  cases hcheck : checkNarrow (mode64 s) L with
  | ok u => exact absurd (checkNarrow_ok.mp hcheck) hwide
  | error st =>
    obtain ⟨⟨hm, -⟩, rfl⟩ := raiseIf_error.mp hcheck
    exact ⟨hm, by rw [controlChecks, bind_of_ok hpageOk, bind_of_error hcheck]⟩

/-- The checks on the TCS, the SECS and the control registers raise a page fault at the TCS address, refuse a wide field or
raise #GP(0) (41 R153 to R166, R141). -/
theorem controlChecks_stops {st : Stop} (hcaller : CallerOk s tcsPa)
    (h : controlChecks s (launchAt s tcsPa) = .error st) : EenterStops s st := by
  by_cases hpage : TcsPageOk s tcsPa
  · by_cases hnarrow : NarrowFields s (launchAt s tcsPa)
    · have hbad : ¬ ControlsOk s (launchAt s tcsPa) := fun hok => by
        have hpass : controlChecks s (launchAt s tcsPa) = .ok () := controlChecks_ok.mpr ⟨hpage, hnarrow, hok⟩
        simp [hpass] at h
      rw [EenterChecks.controlChecks_gp_of_bad_controls hpage hnarrow hbad] at h
      cases h
      exact .gp
    · obtain ⟨hm, hrefuse⟩ := controlChecks_refuse_of_wide hpage hnarrow
      rw [hrefuse] at h
      cases h
      exact .wideField hcaller hpage hm hnarrow
  · cases hraise : checkTcsPage s tcsPa with
    | ok u => exact absurd (checkTcsPage_ok.mp hraise) hpage
    | error e =>
      obtain ⟨code, rfl⟩ := EenterChecks.checkTcsPage_error hraise
      rw [controlChecks, launchAt_tcsPa, bind_of_error hraise] at h
      cases h
      exact .tcsPage code

/-- The GPR area raises a page fault at its address, is refused for crossing a page, or raises #GP(0) (41 R172, R173). -/
theorem gprAreaCheck_stops {st : Stop} (hcaller : CallerOk s tcsPa) (hpage : TcsPageOk s tcsPa)
    (h : gprAreaCheck s (launchAt s tcsPa) = .error st) : EenterStops s st := by
  simp only [gprAreaCheck, check_bind_error, raiseIf_error, check_pure_error, and_false, exists_const, or_false,
    offset_toNat] at h
  obtain hgpr | ⟨_, -, ⟨hcross, rfl⟩ | ⟨_, -, -, rfl⟩⟩ := h
  · obtain ⟨code, rfl⟩ := enclavePageCheck_error hgpr
    exact .gprPage code hcaller
  · exact .gprCrosses hcaller hpage (Nat.not_le_of_lt hcross)
  · exact .gp

/-- The CET save page raises a page fault at its address, where the enclave enables CET (41 R185). -/
theorem cetSaveCheck_stops {st : Stop} (hcaller : CallerOk s tcsPa)
    (h : cetSaveCheck s (launchAt s tcsPa) = .error st) : EenterStops s st := by
  unfold cetSaveCheck at h
  split at h
  · rename_i hon
    simp only [check_bind_error, check_pure_error, and_false, exists_const, or_false] at h
    obtain ⟨code, rfl⟩ := enclavePageCheck_error h
    exact .cetPage code hcaller hon
  · cases h

/-- What EENTER's checks raise, in their order, is one of the named stops (40 R131, 60_exceptions R251 to R253). -/
theorem eenterChecks_stops {st : Stop} (ha : encluAvailable s = true) (hl : leafNumber s = eenterLeaf)
    (h : eenterChecks s = .error st) : EenterStops s st := by
  simp only [eenterChecks, check_bind_error, check_pure_error, and_false, exists_const, or_false] at h
  obtain hcaller | ⟨tcsPa, hpass, h⟩ := h
  · exact callerChecks_stops hcaller
  have hcaller : CallerOk s tcsPa := (callerChecks_ok ha hl).mp hpass
  obtain hcontrols | ⟨_, hpass, h⟩ := h
  · exact controlChecks_stops hcaller hcontrols
  obtain ⟨hpage, -, -⟩ := controlChecks_ok.mp hpass
  obtain hssa | ⟨_, -, hgpr | ⟨_, -, hentry | ⟨_, -, hcet⟩⟩⟩ := h
  · obtain ⟨n, code, -, hn, rfl⟩ := ssaPageLoop_error hssa
    exact .ssaPage code hcaller (by simpa using hn)
  · exact gprAreaCheck_stops hcaller hpage hgpr
  · rw [entryChecks_onlyGp st hentry]
    exact .gp
  · exact cetSaveCheck_stops hcaller hcet

/-! ### What ENCLU answers -/

/-- ENCLU raises #UD when it is not available (30_encoding R96). -/
theorem exec_enclu_ud_of_unavailable (h : encluAvailable s = false) : exec .enclu s = .fault .ud := by
  show execEnclu s = _
  simp [execEnclu, h, raiseStop]

/-- An available ENCLU of another leaf is refused (30_encoding R98). -/
theorem exec_enclu_of_otherLeaf (ha : encluAvailable s = true) (hl : leafNumber s ≠ eenterLeaf) :
    exec .enclu s = .refused .otherLeaf := by
  show execEnclu s = _
  simp [execEnclu, ha, hl, raiseStop]

/-- Everything ENCLU can answer (30_encoding R101): #UD, a refusal for another leaf, an entry, or a stop of EENTER's
checks. -/
theorem exec_enclu_cases (s : State) :
    (encluAvailable s = false ∧ exec .enclu s = .fault .ud) ∨
    (encluAvailable s = true ∧ leafNumber s ≠ eenterLeaf ∧ exec .enclu s = .refused .otherLeaf) ∨
    (encluAvailable s = true ∧ leafNumber s = eenterLeaf ∧
      ((∃ t, exec .enclu s = .next t) ∨ ∃ st, EenterStops s st ∧ exec .enclu s = raiseStop st)) := by
  cases ha : encluAvailable s with
  | false => exact .inl ⟨rfl, exec_enclu_ud_of_unavailable ha⟩
  | true =>
    by_cases hl : leafNumber s = eenterLeaf
    · refine .inr (.inr ⟨rfl, hl, ?_⟩)
      cases hchecks : eenterChecks s with
      | ok e => exact .inl ⟨_, exec_enclu_next.mpr ⟨ha, hl, e, hchecks, rfl⟩⟩
      | error st => exact .inr ⟨st, eenterChecks_stops ha hl hchecks, exec_enclu_stop ha hl hchecks⟩
    · exact .inr (.inl ⟨rfl, hl, exec_enclu_of_otherLeaf ha hl⟩)

end Sys2Proof.Proofs.Inversion

/-! PROOFS. What an entry leaves in the EPC and in memory, and the invariant of the machine (42_eenter_commit R204, R212,
R225). -/

namespace Sys2Proof.Proofs.Invariant

open Sys2Proof.Machine Sys2Proof.Safety Sys2Proof.Laws

/-! ### The EPC after a TCS is written -/

@[simp] theorem epcmAt_putTcs (c : Epc) (pa q : Word) (r : Tcs) : epcmAt (putTcs c pa r) q = epcmAt c q := rfl

@[simp] theorem secsAt_putTcs (c : Epc) (pa q : Word) (r : Tcs) : secsAt (putTcs c pa r) q = secsAt c q := rfl

/-- A TCS write is read in its own page and in no other. -/
theorem tcsAt_putTcs (c : Epc) (pa q : Word) (r : Tcs) :
    tcsAt (putTcs c pa r) q = if pageNumber q = pageNumber pa then r else tcsAt c q :=
  keyedGetD_keyedSet _ _ _ _ _

@[simp] theorem tcsAt_putTcs_self (c : Epc) (pa : Word) (r : Tcs) : tcsAt (putTcs c pa r) pa = r := by
  rw [tcsAt_putTcs, if_pos rfl]

/-! ### The invariant -/

variable {s : State} {e : Entry} {tcsPa gprPa : Word}

/-- An opt-out entry leaves TF clear (42 R216). -/
theorem rflagsTf_commitRflags (h : optIn e = false) : rflagsTf (commitRflags s e) = false := by
  simp [commitRflags, h]

/-- An opt-out entry suppresses every code breakpoint (42 R216). -/
theorem commitDbg_code_suppressed (h : optIn e = false) :
    ∀ b ∈ (commitDbg s e).breakpoints, b.kind = .code → b.suppressed = true := by
  intro b hb hkind
  rw [commitDbg_breakpoints, List.mem_map] at hb
  obtain ⟨b', -, rfl⟩ := hb
  rw [commitBreakpoint_kind] at hkind
  simp [suppresses, hkind, h]

/-- A committed entry is in the enclave that the launch names (42 R225). -/
theorem inEnclave_commitEntry (hlaunch : e.launch = launchAt s tcsPa) (h : EntryReady s tcsPa gprPa) :
    InEnclave (commitEntry s e) := by
  have hcontrols := h.controls
  refine
    { tcs_valid := by simpa [hlaunch] using h.tcs_page.valid
      tcs_type := by simpa [hlaunch] using h.tcs_page.type
      tcs_active := by simp
      active_secs := by simp [hlaunch]
      initialized := by simpa [hlaunch] using hcontrols.initialized
      mode_matches := by simpa [hlaunch] using hcontrols.mode_matches
      elrange := by simp [hlaunch, enclaveRange]
      xcr0 := fun hos => ?_
      opt_in := by simp [optIn]
      tf_clear := fun hopt => rflagsTf_commitRflags hopt
      nothing_pending := fun hopt => ?_
      mtf_suppressed := fun hopt => ?_
      perfmon_suppressed := fun hopt => ?_
      code_breakpoints_suppressed := fun hopt => commitDbg_code_suppressed hopt }
  · rw [commitEntry_sys, commitSys_cr4] at hos
    simp [hos, hlaunch]
  all_goals
    rw [commitEntry_sgx, commitSgx_dbgOptIn] at hopt
    simp [hopt]

/-- The two stores of an entry keep byte memory canonical (42 R212). -/
theorem commitMem_wf (h : Memory.wf s.mem) : Memory.wf (commitMem s e) := physWrite8_wf (physWrite8_wf h _ _) _ _

/-- Committing the entry of a ready launch gives the invariant, of which only the canonical forms are needed before it
(42 R225). -/
theorem inv_commitEntry (hinv : Inv s) (hlaunch : e.launch = launchAt s tcsPa) (h : EntryReady s tcsPa gprPa) :
    Inv (commitEntry s e) where
  mem_wf := by
    rw [commitEntry_mem]
    exact commitMem_wf hinv.mem_wf
  epcm_wf := by
    rw [commitEntry_epc, putTcs_epcm]
    exact hinv.epcm_wf
  tcs_wf := by
    rw [commitEntry_epc, putTcs_tcs]
    exact keyedSet_wf hinv.tcs_wf _ _
  secs_wf := by
    rw [commitEntry_epc, putTcs_secs]
    exact hinv.secs_wf
  xsave_wf := by
    rw [commitEntry_sgx, commitSgx_xsavePages]
    exact putXsavePages_wf hinv.xsave_wf _ _
  in_enclave := fun _ => inEnclave_commitEntry hlaunch h

end Sys2Proof.Proofs.Invariant

namespace Sys2Proof.Proofs

open Sys2Proof.Machine Sys2Proof.Safety Sys2Proof.Laws Sys2Proof.Proofs.Inversion Sys2Proof.Proofs.Invariant

/-- Settles O1: the bytes of ENCLU stand in front, so stripping them leaves the rest. -/
theorem encodedInstructionDecodes : Obligations.EncodedInstructionDecodes := by
  intro c m i rest
  cases i with
  | enclu =>
    have hstrip : afterEnclu c (encode c .enclu ++ rest) = some rest := afterEnclu_eq_some.mpr rfl
    rw [decode, hstrip]

/-- Settles O55: the only step that goes on commits the entry of a ready launch. -/
theorem everyStepKeepsTheInvariant : Obligations.EveryStepKeepsTheInvariant := by
  intro s t hinv hstep
  obtain ⟨e, tcsPa, hlaunch, hready, rfl⟩ := step_next_ready hstep
  exact inv_commitEntry hinv hlaunch hready

end Sys2Proof.Proofs

/-! PROOFS. How far the checks get and what ENCLU then answers: the statements of spec/41_eenter_checks.md and
spec/60_exceptions.md that name the fault or the refusal of each check. -/

namespace Sys2Proof.Proofs.CheckOrder

open Sys2Proof.Machine Sys2Proof.Safety Sys2Proof.Laws Sys2Proof.Proofs.Overview Sys2Proof.Proofs.EenterChecks
  Sys2Proof.Proofs.Inversion

variable {s : State} {tcsPa gprPa : Word}

/-! ### The caller's side -/

/-- In enclave mode the first check raises #GP(0) (41 R140). -/
theorem callerChecks_gp_of_enclaveMode (h : s.sgx.enclaveMode = true) : callerChecks s = .error raiseGp := by
  have hraise : checkNotInEnclave s = .error raiseGp := raiseIf_error.mpr ⟨h, rfl⟩
  rw [callerChecks, bind_of_error hraise]

/-- With an acceptable operand, the TCS address is looked at: whether it is canonical, then where it resolves
(41 R146, R148). -/
theorem callerChecks_of_operand (hcall : Callable s) (hop : OperandOk s) :
    callerChecks s = do
      checkTcsCanonical s
      let tcsPa ← resolveEpc s (tcsLa s)
      checkAepCanonical s
      checkConcurrency s
      return tcsPa := by
  obtain ⟨⟨_, hds⟩, ⟨_, hbases⟩, ⟨_, haligned⟩, ⟨_, hlimit⟩⟩ := operandChecks_ok.mpr hop
  have hout : checkNotInEnclave s = .ok () := checkNotInEnclave_ok.mpr hcall.outside
  rw [callerChecks, bind_of_ok hout, bind_of_ok hds, bind_of_ok hbases, bind_of_ok haligned, bind_of_ok hlimit]

/-- With an acceptable, canonical operand, what the resolution of the TCS address raises is what ENCLU answers. -/
theorem exec_enclu_of_resolveTcs_error {st : Stop} (hcall : Callable s) (hop : OperandOk s)
    (hcan : OperandCanonical s) (h : resolveEpc s (tcsLa s) = .error st) : exec .enclu s = raiseStop st := by
  have hcanonical : checkTcsCanonical s = .ok () := checkTcsCanonical_ok.mpr hcan
  refine exec_enclu_of_callerChecks_error hcall.available hcall.leaf ?_
  rw [callerChecks_of_operand hcall hop, bind_of_ok hcanonical, bind_of_error h]

/-- The locks are free exactly when neither draw of the environment says otherwise (41 R151, R152). -/
theorem checkConcurrency_ok {u : Unit} :
    checkConcurrency s = .ok u ↔ s.draws.tcsLockConflict = false ∧ s.draws.secsInUse = false := by
  simp [checkConcurrency]

/-! ### A page that fails its tests -/

/-- A page that fails its tests raises a page fault at its address, with the oracle's own code where it does not translate
(41 R170, 60_exceptions R262). -/
theorem enclavePageCheck_of_bad {secs la : Word} {pt : PageType} (h : ∀ pa, ¬ EnclavePage s secs la pt pa) :
    ∃ code, enclavePageCheck s secs la pt = .error (.fault (.pf la code)) ∧
      ∀ own, translate s.paging la .readWrite = .error own → own = code := by
  cases hcheck : enclavePageCheck s secs la pt with
  | ok pa => exact absurd (enclavePageCheck_ok.mp hcheck) (h pa)
  | error st =>
    obtain ⟨code, rfl⟩ := enclavePageCheck_error hcheck
    refine ⟨code, rfl, fun own hown => ?_⟩
    rw [enclavePageCheck_untranslated hown] at hcheck
    cases hcheck
    rfl

/-- A page fault at `la` whose code is the oracle's own where `la` does not translate. -/
def FaultsAt (s : State) (la : Word) : Prop :=
  (∃ code, exec .enclu s = .fault (.pf la code)) ∧
    ∀ code, translate s.paging la .readWrite = .error code → exec .enclu s = .fault (.pf la code)

/-- Where what a failing page raises is what ENCLU answers, ENCLU faults at that page. -/
theorem faultsAt_of_bad_page {secs la : Word} {pt : PageType} (hbad : ∀ pa, ¬ EnclavePage s secs la pt pa)
    (hexec : ∀ st, enclavePageCheck s secs la pt = .error st → exec .enclu s = raiseStop st) : FaultsAt s la := by
  obtain ⟨code, hcheck, hcode⟩ := enclavePageCheck_of_bad hbad
  have hfault : exec .enclu s = .fault (.pf la code) := hexec _ hcheck
  refine ⟨⟨code, hfault⟩, fun own hown => ?_⟩
  rw [hcode own hown]
  exact hfault

/-! ### The SSA frame and the GPR area -/

/-- The conditions of the checks up to the control registers (41 R140 to R166): the first four of `EntryReady`. -/
structure ControlsVerified (s : State) (tcsPa : Word) : Prop where
  caller : CallerOk s tcsPa
  tcs_page : TcsPageOk s tcsPa
  narrow : NarrowFields s (launchAt s tcsPa)
  controls : ControlsOk s (launchAt s tcsPa)

/-- With the controls verified, the SSA frame is looked at: the XSAVE region and then the GPR area (40 R131). -/
theorem eenterChecks_of_controlsVerified (h : ControlsVerified s tcsPa) :
    eenterChecks s = do
      let pages ← ssaPageLoop s (launchAt s tcsPa) 0 (ssaPageCount s.cfg (launchAt s tcsPa))
      let gprPa ← gprAreaCheck s (launchAt s tcsPa)
      entryChecks s (launchAt s tcsPa)
      let cetPa ← cetSaveCheck s (launchAt s tcsPa)
      return { launch := launchAt s tcsPa, xsavePages := pages, gprPa := gprPa, cetSaveAreaPa := cetPa } := by
  have hcaller : callerChecks s = .ok tcsPa :=
    (callerChecks_ok h.caller.callable.available h.caller.callable.leaf).mpr h.caller
  have hcontrols : controlChecks s (launchAt s tcsPa) = .ok () :=
    controlChecks_ok.mpr ⟨h.tcs_page, h.narrow, h.controls⟩
  rw [eenterChecks, bind_of_ok hcaller, bind_of_ok hcontrols]

/-- With the controls verified, what the SSA loop raises is what ENCLU answers. -/
theorem exec_enclu_of_ssaPageLoop_error {st : Stop} (h : ControlsVerified s tcsPa)
    (hraise : ssaPageLoop s (launchAt s tcsPa) 0 (ssaPageCount s.cfg (launchAt s tcsPa)) = .error st) :
    exec .enclu s = raiseStop st := by
  refine exec_enclu_stop h.caller.callable.available h.caller.callable.leaf ?_
  rw [eenterChecks_of_controlsVerified h, bind_of_error hraise]

/-- With the XSAVE region verified, what the check of the GPR area raises is what ENCLU answers. -/
theorem exec_enclu_of_gprAreaCheck_error {st : Stop} (h : ControlsVerified s tcsPa)
    (hssa : SsaFrameOk s (launchAt s tcsPa)) (hraise : gprAreaCheck s (launchAt s tcsPa) = .error st) :
    exec .enclu s = raiseStop st := by
  obtain ⟨pages, hpages⟩ := ssaFrame_ok.mpr hssa
  refine exec_enclu_stop h.caller.callable.available h.caller.callable.leaf ?_
  rw [eenterChecks_of_controlsVerified h, bind_of_ok hpages, bind_of_error hraise]

/-- The SSA loop raises what its lowest failing page raises (41 R169). -/
theorem ssaPageLoop_of_lowest_bad {L : Launch} {st : Stop} {j n k : Nat} (hj : j < k)
    (hbelow : ∀ i, i < j → SsaPageOk s L (n + i))
    (hraise : enclavePageCheck s L.tmpSecs (tmpSsaPage (mode64 s) L (n + j)) .reg = .error st) :
    ssaPageLoop s L n k = .error st := by
  obtain ⟨k, rfl⟩ := Nat.exists_eq_add_one_of_ne_zero (Nat.ne_zero_of_lt hj)
  induction j generalizing n k with
  | zero =>
    rw [Nat.add_zero] at hraise
    rw [ssaPageLoop, bind_of_error hraise]
  | succ j ih =>
    obtain ⟨pa, hpa⟩ := hbelow 0 (by omega)
    have hfirst : enclavePageCheck s L.tmpSecs (tmpSsaPage (mode64 s) L n) .reg = .ok pa := enclavePageCheck_ok.mpr hpa
    obtain ⟨k, rfl⟩ := Nat.exists_eq_add_one_of_ne_zero (n := k) (by omega)
    have hrest : ssaPageLoop s L (n + 1) (k + 1) = .error st := by
      refine ih (fun i hi => ?_) ?_ k (by omega)
      · rw [show n + 1 + i = n + (i + 1) by omega]
        exact hbelow (i + 1) (by omega)
      · rwa [show n + 1 + j = n + (j + 1) by omega]
    rw [ssaPageLoop, bind_of_ok hfirst, bind_of_error hrest]

/-- A GPR area whose page passes but which crosses into the next is refused (41 R172, 93 U29). -/
theorem gprAreaCheck_refuse_of_crossing {L : Launch} (hpage : GprPageOk s L gprPa) (hcross : ¬ GprInOnePage s L) :
    gprAreaCheck s L = .error (.refuse .gprAreaCrossesPage) := by
  unfold GprInOnePage at hcross
  rw [gprAreaCheck, bind_of_ok (enclavePageCheck_ok.mpr hpage), offset_toNat,
    bind_of_error (raiseIf_error.mpr ⟨Nat.lt_of_not_le hcross, rfl⟩)]

/-- A GPR area in one page but not in DS raises #GP(0) (41 R173). -/
theorem gprAreaCheck_gp_of_outside_ds {L : Launch} (hpage : GprPageOk s L gprPa) (hone : GprInOnePage s L)
    (hout : ¬ GprInDs s L) : gprAreaCheck s L = .error raiseGp := by
  unfold GprInOnePage at hone
  simp only [GprInDs, Classical.not_imp, Nat.not_le] at hout
  rw [gprAreaCheck, bind_of_ok (enclavePageCheck_ok.mpr hpage), offset_toNat,
    bind_of_ok ((raiseIf_ok (u := ())).mpr (Nat.not_lt.mpr hone)), bind_of_error (raiseIf_error.mpr ⟨hout, rfl⟩)]

/-! ### The CET save page -/

/-- With the entry point verified, what the check of the CET save page raises is what ENCLU answers. -/
theorem exec_enclu_of_cetSaveCheck_error {st : Stop} (h : FrameVerified s tcsPa gprPa)
    (hentry : EntryPointOk s (launchAt s tcsPa)) (hraise : cetSaveCheck s (launchAt s tcsPa) = .error st) :
    exec .enclu s = raiseStop st := by
  have hentryOk : entryChecks s (launchAt s tcsPa) = .ok () := entryChecks_ok.mpr hentry
  obtain ⟨pages, -, hchecks⟩ := eenterChecks_of_frameVerified h
  rw [bind_of_ok hentryOk, bind_of_error hraise] at hchecks
  exact exec_enclu_stop h.caller.callable.available h.caller.callable.leaf hchecks

/-- Where the enclave enables CET, the CET check raises what its page raises (41 R185). -/
theorem cetSaveCheck_of_bad_page {L : Launch} {st : Stop} (hon : cetOn s.cfg L = true)
    (hraise : enclavePageCheck s L.tmpSecs (tmpCetSavePage (mode64 s) L) .ssRest = .error st) :
    cetSaveCheck s L = .error st := by
  rw [cetSaveCheck, if_pos hon, bind_of_error hraise]

/-! ### Stops as outcomes -/

theorem raiseStop_eq_fault {st : Stop} {f : Fault} : raiseStop st = .fault f ↔ st = .fault f := by
  cases st <;> simp [raiseStop]

theorem raiseStop_eq_refused {st : Stop} {r : Refusal} : raiseStop st = .refused r ↔ st = .refuse r := by
  cases st <;> simp [raiseStop]

/-- A fault of ENCLU is #UD, because it is not available, or a fault of EENTER's checks. -/
theorem exec_enclu_fault {f : Fault} (h : exec .enclu s = .fault f) :
    (f = .ud ∧ encluAvailable s = false) ∨ EenterStops s (.fault f) := by
  obtain ⟨ha, hud⟩ | ⟨-, -, hleaf⟩ | ⟨-, -, ⟨t, hnext⟩ | ⟨st, hst, hstop⟩⟩ := exec_enclu_cases s
  · rw [hud] at h
    cases h
    exact .inl ⟨rfl, ha⟩
  · simp [hleaf] at h
  · simp [hnext] at h
  · rw [hstop, raiseStop_eq_fault] at h
    exact .inr (h ▸ hst)

/-- A refusal of ENCLU is that of another leaf, or one of EENTER's checks. -/
theorem exec_enclu_refused {r : Refusal} (h : exec .enclu s = .refused r) :
    (r = .otherLeaf ∧ leafNumber s ≠ eenterLeaf) ∨ EenterStops s (.refuse r) := by
  obtain ⟨-, hud⟩ | ⟨-, hl, hleaf⟩ | ⟨-, -, ⟨t, hnext⟩ | ⟨st, hst, hstop⟩⟩ := exec_enclu_cases s
  · simp [hud] at h
  · rw [hleaf] at h
    cases h
    exact .inl ⟨rfl, hl⟩
  · simp [hnext] at h
  · rw [hstop, raiseStop_eq_refused] at h
    exact .inr (h ▸ hst)

/-- EENTER's checks do not raise #UD, so ENCLU raises it exactly when it is not available (30_encoding R96,
60_exceptions R258). -/
theorem exec_enclu_ud : exec .enclu s = .fault .ud ↔ encluAvailable s = false := by
  refine ⟨fun h => ?_, exec_enclu_ud_of_unavailable⟩
  obtain ⟨-, ha⟩ | hstop := exec_enclu_fault h
  · exact ha
  · cases hstop

end Sys2Proof.Proofs.CheckOrder

namespace Sys2Proof.Proofs

open Sys2Proof.Machine Sys2Proof.Safety Sys2Proof.Laws Sys2Proof.Proofs.Overview Sys2Proof.Proofs.EenterChecks
  Sys2Proof.Proofs.Inversion Sys2Proof.Proofs.CheckOrder

/-- Settles O13: both raise #GP(0) before the TCS address is looked at. -/
theorem enclaveModeOrBadOperandRaisesGp : Obligations.EnclaveModeOrBadOperandRaisesGp := by
  intro s ha hl hbad
  refine exec_enclu_of_callerChecks_error (st := raiseGp) ha hl ?_
  obtain hmode | hoperand := hbad
  · exact callerChecks_gp_of_enclaveMode hmode
  · exact callerChecks_gp_of_bad_operand hoperand

/-- Settles O14: the check of R148 is the first to fail, and it draws one of the two faults. -/
theorem nonCanonicalTcsFaults : Obligations.NonCanonicalTcsFaults := by
  intro s hcall hop hm hrbx
  have hla : tcsLa s = s.gpr.rbx := by simp [tcsLa, dsAddr, reg, hm, gprGet]
  cases hcheck : checkTcsCanonical s with
  | ok u =>
    have hcanonical : isCanonical s.cfg s.gpr.rbx = true := by
      simpa [reg, hm, gprGet] using checkTcsCanonical_ok.mp hcheck hm
    simp [hcanonical] at hrbx
  | error st =>
    have hexec : exec .enclu s = raiseStop st := by
      refine exec_enclu_of_callerChecks_error hcall.available hcall.leaf ?_
      rw [callerChecks_of_operand hcall hop, bind_of_error hcheck]
    obtain rfl | ⟨code, rfl⟩ := checkTcsCanonical_error hcheck
    · exact .inl hexec
    · exact .inr ⟨code, hla ▸ hexec⟩

/-- Settles O15: the resolution of the TCS address is the first check to fail. -/
theorem unresolvedTcsPageFaults : Obligations.UnresolvedTcsPageFaults := by
  intro s hcall hop hcan
  refine ⟨fun code hcode => ?_, fun pa hpa hepc => ?_⟩
  · have hraise : resolveEpc s (tcsLa s) = .error (.fault (.pf (tcsLa s) code)) :=
      bind_of_error (translateOrRaise_error.mpr ⟨code, hcode, rfl⟩)
    exact exec_enclu_of_resolveTcs_error hcall hop hcan hraise
  · cases hresolve : resolveEpc s (tcsLa s) with
    | ok q =>
      obtain ⟨hq, hqepc⟩ := resolveEpc_ok.mp hresolve
      rw [hpa] at hq
      cases hq
      simp [hqepc] at hepc
    | error st =>
      obtain ⟨code, rfl⟩ := resolveEpc_error hresolve
      exact ⟨code, exec_enclu_of_resolveTcs_error hcall hop hcan hresolve⟩

/-- Settles O17: only the AEP is checked before the locks, with the same fault. -/
theorem lockConflictRaisesGp : Obligations.LockConflictRaisesGp := by
  intro s tcsPa hcall hop hcan hres hconflict
  have hlocks : checkConcurrency s = .error raiseGp := by
    refine checkConcurrency_onlyGp.raises fun hpass => ?_
    obtain ⟨htcs, hsecs⟩ := checkConcurrency_ok.mp hpass
    simp [htcs, hsecs] at hconflict
  refine exec_enclu_of_callerChecks_error (st := raiseGp) hcall.available hcall.leaf ?_
  rw [callerChecks_of_resolved hcall hop hcan hres]
  cases haep : checkAepCanonical s with
  | ok u => rw [bind_of_ok rfl, bind_of_error hlocks]
  | error st => rw [bind_of_error rfl, raiseIf_onlyGp st haep]

/-- Settles O19: the widths are checked right after the TCS page. -/
theorem wideFieldsAreRefused : Obligations.WideFieldsAreRefused := by
  intro s tcsPa hcaller hpage hwide
  obtain ⟨-, hrefuse⟩ := controlChecks_refuse_of_wide hpage hwide
  exact exec_enclu_of_controlChecks_error hcaller hrefuse

/-- Settles O20: the control checks that are left raise nothing but #GP(0). -/
theorem badControlsRaiseGp : Obligations.BadControlsRaiseGp := fun _ _ => exec_enclu_gp_of_bad_controls

/-- Settles O25: the loop visits the pages lowest first and stops at the first that fails. -/
theorem lowestBadSsaPageFaults : Obligations.LowestBadSsaPageFaults := by
  intro s tcsPa k hcaller hpage hnarrow hcontrols hk hbelow hbad
  refine faultsAt_of_bad_page (fun pa hpa => hbad ⟨pa, hpa⟩) fun st hraise => ?_
  refine exec_enclu_of_ssaPageLoop_error ⟨hcaller, hpage, hnarrow, hcontrols⟩ (ssaPageLoop_of_lowest_bad hk ?_ ?_)
  · simpa using hbelow
  · rwa [Nat.zero_add]

/-- Settles O26: the page is the first thing that the check of the GPR area looks at. -/
theorem badGprPageFaults : Obligations.BadGprPageFaults := by
  intro s tcsPa hcaller hpage hnarrow hcontrols hssa hbad
  exact faultsAt_of_bad_page hbad fun st hraise =>
    exec_enclu_of_gprAreaCheck_error ⟨hcaller, hpage, hnarrow, hcontrols⟩ hssa (bind_of_error hraise)

/-- Settles O27: once the page passes, the crossing is tested before DS.limit. -/
theorem badGprAreaStops : Obligations.BadGprAreaStops := by
  intro s tcsPa gprPa hcaller hpage hnarrow hcontrols hssa hgpr
  have hverified : ControlsVerified s tcsPa := ⟨hcaller, hpage, hnarrow, hcontrols⟩
  exact ⟨fun hcross => exec_enclu_of_gprAreaCheck_error hverified hssa (gprAreaCheck_refuse_of_crossing hgpr hcross),
    fun hone hout => exec_enclu_of_gprAreaCheck_error hverified hssa (gprAreaCheck_gp_of_outside_ds hgpr hone hout)⟩

/-- Settles O28: the entry checks raise nothing but #GP(0), and they are the next once the frame is verified. -/
theorem badEntryPointRaisesGp : Obligations.BadEntryPointRaisesGp := by
  intro s tcsPa gprPa hcaller hpage hnarrow hcontrols hssa hgpr hone hds hbad
  exact exec_enclu_gp_of_bad_entryPoint ⟨hcaller, hpage, hnarrow, hcontrols, hssa, hgpr, hone, hds⟩ hbad

/-- Settles O31: the CET save page is the last check, and it is made only with CET on. -/
theorem badCetSavePageFaults : Obligations.BadCetSavePageFaults := by
  intro s tcsPa gprPa hcaller hpage hnarrow hcontrols hssa hgpr hone hds hentry hbad
  simp only [CetSaveOk, Classical.not_imp, not_exists] at hbad
  obtain ⟨hon, hbadPage⟩ := hbad
  exact faultsAt_of_bad_page hbadPage fun st hraise =>
    exec_enclu_of_cetSaveCheck_error ⟨hcaller, hpage, hnarrow, hcontrols, hssa, hgpr, hone, hds⟩ hentry
      (cetSaveCheck_of_bad_page hon hraise)

/-- Settles O32: each stop of EENTER's checks that is a page fault carries one of the four addresses. -/
theorem pageFaultAddresses : Obligations.PageFaultAddresses := by
  intro s a code hfault
  obtain ⟨hud, -⟩ | hstop := exec_enclu_fault hfault
  · cases hud
  cases hstop with
  | tcsPage => exact .inl rfl
  | ssaPage _ hcaller hvisited => exact .inr ⟨_, hcaller.resolves.translates, .inl ⟨_, hvisited, rfl⟩⟩
  | gprPage _ hcaller => exact .inr ⟨_, hcaller.resolves.translates, .inr (.inl rfl)⟩
  | cetPage _ hcaller hon => exact .inr ⟨_, hcaller.resolves.translates, .inr (.inr ⟨hon, rfl⟩)⟩

/-- Settles O33: two of the stops of EENTER's checks are refusals. -/
theorem encluRefusesOnlyByTheseNames : Obligations.EncluRefusesOnlyByTheseNames := by
  intro s r hrefused
  obtain hleaf | hstop := exec_enclu_refused hrefused
  · exact .inl hleaf
  cases hstop with
  | wideField hcaller hpage hm hwide => exact .inr ⟨_, hcaller, hpage, .inl ⟨rfl, hm, hwide⟩⟩
  | gprCrosses hcaller hpage hcross => exact .inr ⟨_, hcaller, hpage, .inr ⟨rfl, hcross⟩⟩

/-- Settles O34: the inversion of an entry one way, the commit of a ready launch the other. -/
theorem entersExactlyWhenReady : Obligations.EntersExactlyWhenReady := by
  intro s
  constructor
  · rintro ⟨t, hnext⟩
    obtain ⟨e, tcsPa, -, hready, -⟩ := exec_enclu_next_ready hnext
    exact ⟨tcsPa, e.gprPa, hready⟩
  · rintro ⟨tcsPa, gprPa, hready⟩
    obtain ⟨pages, cetPa, -, -, hexec⟩ := exec_enclu_of_ready hready
    exact ⟨_, hexec⟩

/-- Settles O7: #UD means that the predicate the configuration names is false. -/
theorem unavailableEncluRaisesUd : Obligations.UnavailableEncluRaisesUd := by
  intro s
  rw [exec_enclu_ud, encluAvailable]
  cases s.cfg.encluAvailability with
  | generalKnowledge =>
    simp only [encluAvailableGk, cr0Pe, rflagsVm, Bool.and_eq_false_iff, Bool.not_eq_false', beq_eq_false_iff_ne, ne_eq,
      or_assoc]
  | other => exact Iff.rfl

/-- Settles O8: the leaf is tested as soon as ENCLU is known to be available. -/
theorem otherLeafIsRefused : Obligations.OtherLeafIsRefused := fun _ => exec_enclu_of_otherLeaf

end Sys2Proof.Proofs

/-! PROOFS. The statements of spec/30_encoding.md and of the step: the decoder and the encoder, the fetch of an instruction's
bytes, and the machine right after reset (10_state R50). -/

namespace Sys2Proof.Proofs.Encoding

open Sys2Proof.Machine Sys2Proof.Safety Sys2Proof.Laws

/-! ### The decoder -/

/-- The decoder reads an instruction only where the bytes of ENCLU stand in front. -/
theorem decode_eq_ok {c : Config} {m : Bool} {bytes rest : List Byte} {i : Instr}
    (h : decode c m bytes = .ok (i, rest)) : i = .enclu ∧ afterEnclu c bytes = some rest := by
  unfold decode at h
  split at h
  · rename_i found hfound
    cases h
    exact ⟨rfl, hfound⟩
  · dsimp only at h
    split at h
    · cases h
    · split at h <;> cases h

/-- Bytes that are ENCLU behind what is dropped, but not in front, are refused by name. -/
theorem decode_prefixed {c : Config} {m : Bool} {bytes rest : List Byte} (hfront : afterEnclu c bytes = none)
    (hbehind : afterEnclu c (dropPrefixes m bytes) = some rest) : decode c m bytes = .error .prefixedEnclu := by
  simp [decode, hfront, hbehind]

/-- Bytes whose first is not the first of ENCLU do not start with ENCLU. -/
theorem afterEnclu_none_of_head_ne {c : Config} {b p : Byte} {bs bytes : List Byte} (hc : c.encluBytes = b :: bs)
    (hne : p ≠ b) : afterEnclu c (p :: bytes) = none := by
  rw [afterEnclu, hc, stripBytes, if_neg hne.symm]

/-! ### The fetch and the step -/

variable {s : State}

/-- Bytes that can be fetched one by one, within the window, are the first that the fetch answers (log 23). -/
theorem fetchBytes_starts_with {bs : List Byte} {j n : Nat} (hlen : bs.length ≤ n)
    (h : ∀ (k : Nat) (hk : k < bs.length), fetchByte s (j + k) = .ok bs[k]) :
    ∃ rest, (fetchBytes s j n).1 = bs ++ rest := by
  induction bs generalizing j n with
  | nil => exact ⟨_, rfl⟩
  | cons b bs ih =>
    obtain ⟨n, rfl⟩ := Nat.exists_eq_add_one_of_ne_zero (n := n) (by rintro rfl; simp at hlen)
    have hfirst : fetchByte s j = .ok b := h 0 (by simp)
    obtain ⟨rest, hrest⟩ := ih (j := j + 1) (n := n) (by simpa using hlen) fun k hk => by
      have hnext := h (k + 1) (by simpa using hk)
      rwa [show j + 1 + k = j + (k + 1) by omega]
    exact ⟨rest, by simp [fetchBytes, hfirst, hrest]⟩

theorem fetchInstr_of_decode {i : Instr} {rest : List Byte}
    (h : decode s.cfg (mode64 s) (fetchBytes s 0 fetchWindow).1 = .ok (i, rest)) : fetchInstr s = .ok i := by
  simp [fetchInstr, h]

/-- With no event due, a step executes what it fetches. -/
theorem step_of_fetchInstr {i : Instr} (hdue : pendingEventDue s = false) (h : fetchInstr s = .ok i) :
    step s = exec i s := by
  simp [step, hdue, h]

/-- A due event stops the step by name (92 D22; log 24). -/
theorem step_of_pendingEventDue (h : pendingEventDue s = true) : step s = .refused .pendingEventDue := by
  simp [step, h, raiseStop]

end Sys2Proof.Proofs.Encoding

namespace Sys2Proof.Proofs

open Sys2Proof.Machine Sys2Proof.Safety Sys2Proof.Laws Sys2Proof.Proofs.Inversion Sys2Proof.Proofs.Encoding

/-- Settles O2: the decoder answers an instruction in one branch, where the bytes of ENCLU stand in front. -/
theorem onlyTheEncodingDecodes : Obligations.OnlyTheEncodingDecodes := by
  intro c m bytes rest i hdecode
  obtain ⟨rfl, hfront⟩ := decode_eq_ok hdecode
  exact afterEnclu_eq_some.mp hfront

/-- Settles O3: the bytes in front are prefixes, so the first is not the first of ENCLU; with them dropped, ENCLU is in
front. -/
theorem prefixedEncluIsRefusedByName : Obligations.PrefixedEncluIsRefusedByName := by
  intro c m ps rest i hunprefixed hne hps
  cases i with
  | enclu =>
    obtain ⟨b, bs, hc, hb⟩ := encluUnprefixed_head hunprefixed
    obtain ⟨p, ps', rfl⟩ := List.exists_cons_of_ne_nil hne
    have hpb : p ≠ b := by
      rintro rfl
      simpa [hb m] using hps p (by simp)
    have hdrop : dropPrefixes m (p :: ps' ++ (encode c .enclu ++ rest)) = c.encluBytes ++ rest := by
      rw [encode_enclu, hc]
      exact dropPrefixes_append hps (hb m)
    exact decode_prefixed (afterEnclu_none_of_head_ne hc hpb) (hdrop ▸ afterEnclu_eq_some.mpr rfl)

/-- Settles O4: the decoder evaluated on each of the words. -/
theorem specWordsDecode : Obligations.SpecWordsDecode :=
  ⟨by decide, by decide, by decide, by decide, by decide, by decide⟩

/-- Settles O5: the fetched bytes start with the encoding, which decodes to the instruction. -/
theorem stepRunsTheDecodedInstruction : Obligations.StepRunsTheDecodedInstruction := by
  intro s i _ hlen hdue hbytes
  obtain ⟨rest, hrest⟩ := fetchBytes_starts_with (j := 0) hlen (by simpa using hbytes)
  have hdecode : decode s.cfg (mode64 s) (fetchBytes s 0 fetchWindow).1 = .ok (i, rest) := by
    rw [fetchWindow, hrest]
    exact encodedInstructionDecodes s.cfg (mode64 s) i rest
  exact step_of_fetchInstr hdue (fetchInstr_of_decode hdecode)

/-- Settles O6: either event is one that is due in enclave mode. -/
theorem stepStopsAtAPendedEvent : Obligations.StepStopsAtAPendedEvent := by
  intro s hmode hevent
  refine step_of_pendingEventDue ?_
  obtain hdb | hmtf := hevent
  · simp [pendingEventDue, hmode, hdb]
  · simp [pendingEventDue, hmode, hmtf]

/-- Settles O54: the reset data is canonical, and reset is outside enclave mode. -/
theorem resetMeetsTheInvariant : Obligations.ResetMeetsTheInvariant := by
  obtain ⟨hmem, hepcm, htcs, hsecs, hxsave⟩ := reset_canonical
  have houtside : State.reset.sgx.enclaveMode = false := rfl
  exact ⟨hmem, hepcm, htcs, hsecs, hxsave, fun hmode => by simp [houtside] at hmode⟩

/-- Settles O56: the three bytes of ENCLU are fetched where they were placed, and SGX is not enabled at reset. -/
theorem resetIsOutsideEveryEnclave : Obligations.ResetIsOutsideEveryEnclave := by
  have hstep : step (State.reset.withFetchWord 24 0x0F01D7) = exec .enclu (State.reset.withFetchWord 24 0x0F01D7) := by
    refine stepRunsTheDecodedInstruction _ .enclu rfl (by decide) rfl fun k hk => ?_
    have hk3 : k < 3 := hk
    interval_cases k <;> rfl
  exact ⟨rfl, fun _ => rfl, hstep, hstep.trans (exec_enclu_ud_of_unavailable rfl)⟩

end Sys2Proof.Proofs

/-! PROOFS. Addresses and byte memory: the address temporaries as sums of naturals (41 R141), canonical addresses
(00_scope R14), and what is read after an eight-byte store (00_scope R12, 20_memory R68). -/

namespace Sys2Proof.Proofs.Addresses

open Sys2Proof.Machine Sys2Proof.Laws

/-! ### Sums at the width of the mode -/

theorem atWidth_toNat (m : Bool) (v : Word) :
    (atWidth m v).toNat = v.toNat % (if m then 2 ^ 64 else 2 ^ 32) := by
  cases m with
  | false => exact atWidth_false_toNat v
  | true => exact (Nat.mod_eq_of_lt v.isLt).symm

/-- The modulus of either mode divides that of a 64-bit word. -/
theorem widthModulus_dvd (m : Bool) : (if m then 2 ^ 64 else 2 ^ 32 : Nat) ∣ 2 ^ 64 := by
  cases m <;> decide

/-- A sum formed in 64 bits is, at the width of the mode, the sum of naturals reduced once (92 D8). -/
theorem atWidth_ofNat_toNat (m : Bool) (x : Nat) :
    (atWidth m (BitVec.ofNat 64 x)).toNat = x % (if m then 2 ^ 64 else 2 ^ 32) := by
  rw [atWidth_toNat, BitVec.toNat_ofNat, Nat.mod_mod_of_dvd _ (widthModulus_dvd m)]

theorem atWidth_lt (m : Bool) (v : Word) : (atWidth m v).toNat < (if m then 2 ^ 64 else 2 ^ 32) := by
  rw [atWidth_toNat]
  exact Nat.mod_lt _ (by cases m <;> decide)

/-- A difference is the number that, with what was taken away added, gives what it was taken from. -/
theorem atWidth_sub_add (m : Bool) (v : Word) (x : Nat) :
    ((atWidth m (v - BitVec.ofNat 64 x)).toNat + x) % (if m then 2 ^ 64 else 2 ^ 32) =
      v.toNat % (if m then 2 ^ 64 else 2 ^ 32) := by
  have hsum : (v - BitVec.ofNat 64 x) + BitVec.ofNat 64 x = v := BitVec.sub_add_cancel _ _
  calc ((atWidth m (v - BitVec.ofNat 64 x)).toNat + x) % (if m then 2 ^ 64 else 2 ^ 32)
      = ((v - BitVec.ofNat 64 x).toNat + x) % (if m then 2 ^ 64 else 2 ^ 32) := by
        rw [atWidth_toNat, Nat.mod_add_mod]
    _ = ((v - BitVec.ofNat 64 x) + BitVec.ofNat 64 x).toNat % (if m then 2 ^ 64 else 2 ^ 32) := by
        rw [BitVec.toNat_add, BitVec.toNat_ofNat, Nat.add_mod_mod, Nat.mod_mod_of_dvd _ (widthModulus_dvd m)]
    _ = v.toNat % (if m then 2 ^ 64 else 2 ^ 32) := by rw [hsum]

/-- The bits of a word outside a mask and those inside it add up to the word. -/
theorem and_not_add_and (a k : Word) : (a &&& ~~~k).toNat + (a &&& k).toNat = a.toNat := by
  have hdisjoint : (a &&& ~~~k) &&& (a &&& k) = 0#64 := by
    ext i hi
    cases hk : k[i] <;> simp [hk]
  have hunion : (a &&& ~~~k) ||| (a &&& k) = a := by
    ext i hi
    cases hk : k[i] <;> simp [hk]
  rw [← BitVec.toNat_add_of_and_eq_zero hdisjoint, BitVec.add_eq_or_of_and_eq_zero _ _ hdisjoint, hunion]

/-- A page address and the offset in the page give the address (00_scope R15). -/
theorem pageOf_add_offset (a : Word) : (pageOf a).toNat + a.toNat % 4096 = a.toNat := by
  rw [← offset_toNat]
  exact and_not_add_and a 0xFFF

/-! ### Canonical addresses -/

/-- The bits from `k` on are all zero or all one exactly when each of them equals the last. -/
theorem ushiftRight_zero_or_ones {a : Word} {k : Nat} (hk : k < 64) :
    (a >>> k = 0 ∨ a >>> k = BitVec.allOnes 64 >>> k) ↔
      ∀ i, k ≤ i → i < 64 → a.getLsbD i = a.getLsbD 63 := by
  have hbit (v : Word) : (∀ i, k ≤ i → i < 64 → a.getLsbD i = v.getLsbD i) ↔ a >>> k = v >>> k := by
    constructor
    · intro h
      ext i hi
      rw [BitVec.getElem_ushiftRight, BitVec.getElem_ushiftRight]
      by_cases hlt : k + i < 64
      · exact h (k + i) (by omega) hlt
      · rw [BitVec.getLsbD_of_ge a _ (by omega), BitVec.getLsbD_of_ge v _ (by omega)]
    · intro h i hki hi
      have hi' := congrArg (fun w : Word => w.getLsbD (i - k)) h
      simpa [BitVec.getLsbD_ushiftRight, Nat.add_sub_cancel' hki] using hi'
  have hzero : a >>> k = 0 ↔ ∀ i, k ≤ i → i < 64 → a.getLsbD i = false := by
    simpa using (hbit 0).symm
  have hones : a >>> k = BitVec.allOnes 64 >>> k ↔ ∀ i, k ≤ i → i < 64 → a.getLsbD i = true := by
    rw [← hbit]
    exact forall₃_congr fun i _ hi => by rw [BitVec.getLsbD_allOnes, decide_eq_true hi]
  rw [hzero, hones]
  constructor
  · rintro (h | h) i hki hi
    · rw [h i hki hi, h 63 (by omega) (by omega)]
    · rw [h i hki hi, h 63 (by omega) (by omega)]
  · intro h
    cases hsign : a.getLsbD 63 with
    | false => exact .inl fun i hki hi => (h i hki hi).trans hsign
    | true => exact .inr fun i hki hi => (h i hki hi).trans hsign

/-! ### Byte memory -/

/-- Two offsets below 2^64 give two addresses. -/
theorem add_ofNat_ne (pa : Word) {i j : Nat} (hi : i < 2 ^ 64) (hj : j < 2 ^ 64) (hne : i ≠ j) :
    pa + BitVec.ofNat 64 i ≠ pa + BitVec.ofNat 64 j := by
  intro h
  have hij := congrArg BitVec.toNat (BitVec.add_right_inj _ |>.mp h)
  rw [BitVec.toNat_ofNat, BitVec.toNat_ofNat, Nat.mod_eq_of_lt hi, Nat.mod_eq_of_lt hj] at hij
  exact hne hij

theorem add_ofNat_add (pa : Word) (i j : Nat) :
    pa + BitVec.ofNat 64 i + BitVec.ofNat 64 j = pa + BitVec.ofNat 64 (i + j) := by
  rw [BitVec.ofNat_add, BitVec.add_assoc]

/-- Stored bytes are read back in their order, as long as they do not wrap onto themselves. -/
theorem memReadByte_memWriteBytes (m : List Host.Cell) (pa : Word) (bs : List Byte) (hlen : bs.length ≤ 2 ^ 64)
    {i : Nat} (hi : i < bs.length) :
    memReadByte (memWriteBytes m pa bs) (pa + BitVec.ofNat 64 i) = some bs[i] := by
  induction bs generalizing m pa i with
  | nil => simp at hi
  | cons b bs ih =>
    rw [List.length_cons] at hi hlen
    rw [memWriteBytes]
    cases i with
    | zero =>
      rw [memReadByte_memWriteBytes_of_ne]
      · simp
      · intro j hj
        rw [show pa + 1 = pa + BitVec.ofNat 64 1 from rfl, add_ofNat_add]
        exact add_ofNat_ne pa (by omega) (by omega) (by omega)
    | succ i =>
      have hnext := ih (memWriteByte m pa b) (pa + 1) (by omega) (i := i) (by omega)
      rwa [show pa + 1 = pa + BitVec.ofNat 64 1 from rfl, add_ofNat_add, Nat.add_comm 1 i] at hnext

theorem wordBytes_length (v : Word) : (wordBytes v).length = 8 := rfl

/-- The `i`-th byte of a word, the least significant first (20_memory R68). -/
theorem wordBytes_getElem (v : Word) {i : Nat} (hi : i < (wordBytes v).length) :
    (wordBytes v)[i] = v.extractLsb' (8 * i) 8 := by
  have hi8 : i < 8 := hi
  interval_cases i <;> rfl

/-- An eight-byte store is read back byte by byte. -/
theorem memReadByte_physWrite8 (m : List Host.Cell) (pa v : Word) {i : Nat} (hi : i < 8) :
    memReadByte (physWrite8 m pa v) (pa + BitVec.ofNat 64 i) = some (v.extractLsb' (8 * i) 8) := by
  have hlen : i < (wordBytes v).length := hi
  rw [physWrite8, memReadByte_memWriteBytes _ _ _ (by rw [wordBytes_length]; decide) hlen, wordBytes_getElem]

/-- An eight-byte store leaves every byte outside its slot. -/
theorem memReadByte_physWrite8_of_ne (m : List Host.Cell) (pa v : Word) {a : Word}
    (h : ∀ i, i < 8 → a ≠ pa + BitVec.ofNat 64 i) : memReadByte (physWrite8 m pa v) a = memReadByte m a :=
  memReadByte_memWriteBytes_of_ne m pa a _ h

end Sys2Proof.Proofs.Addresses

namespace Sys2Proof.Proofs

open Sys2Proof.Machine Sys2Proof.Laws Sys2Proof.Proofs.Addresses

/-- Settles O10: each temporary is formed modulo 2^64 and then reduced to the width of the mode, whose modulus divides
that. -/
theorem temporariesAreModularSums : Obligations.TemporariesAreModularSums := by
  intro c m L n W base frame
  have hsum (v : Word) (x : Nat) (h : v = BitVec.ofNat 64 x) : (atWidth m v).toNat = x % W := by
    rw [h]
    exact atWidth_ofNat_toNat m x
  have hsum32 (v : Word) (x : Nat) (h : v = BitVec.ofNat 64 x) : (atWidth false v).toNat = x % 2 ^ 32 := by
    rw [h]
    exact atWidth_ofNat_toNat false x
  have hframe : tmpSsa m L + 4096 * L.secs.ssaframesize.setWidth 64 =
      BitVec.ofNat 64 ((tmpSsa m L).toNat + frame) := by
    simp [frame, BitVec.ofNat_add, BitVec.ofNat_mul]
  refine ⟨hsum _ _ ?_, hsum _ _ ?_, atWidth_lt m _, ?_, hsum _ _ ?_, hsum _ _ ?_, hsum _ _ ?_, hsum32 _ _ ?_,
    hsum32 _ _ ?_, hsum _ _ ?_, pageOf_add_offset _⟩
  case refine_3 =>
    rw [tmpGpr, hframe, atWidth_sub_add, BitVec.toNat_ofNat, Nat.mod_mod_of_dvd _ (widthModulus_dvd m)]
  all_goals simp [base, frame, BitVec.ofNat_add, BitVec.ofNat_mul]

/-- Settles O11: for either width, the bits from LA_WIDTH - 1 on are shifted down and compared with all zeros and all
ones. -/
theorem canonicalMeansTopBitsAgree : Obligations.CanonicalMeansTopBitsAgree := by
  intro c a
  have hwidth : c.laWidth.bits - 1 < 64 := by cases c.laWidth <;> decide
  rw [← ushiftRight_zero_or_ones hwidth]
  simp [isCanonical]

/-- Settles O57: the bytes of the word are stored at eight different addresses. -/
theorem storeIsReadBackLittleEndian : Obligations.StoreIsReadBackLittleEndian := by
  intro m pa v
  exact ⟨fun i hi => memReadByte_physWrite8 m pa v hi, fun a ha => memReadByte_physWrite8_of_ne m pa v ha,
    fun hm => physWrite8_wf hm pa v⟩

end Sys2Proof.Proofs

/-! PROOFS. The statements of spec/42_eenter_commit.md that say what a ready launch leaves in the state. The committed entry
is that of the launch at `tcsPa`; each statement is read off its fields. -/

namespace Sys2Proof.Proofs.Commit

open Sys2Proof.Machine Sys2Proof.Safety Sys2Proof.Laws Sys2Proof.Proofs.Overview Sys2Proof.Proofs.Addresses

variable {s : State} {e : Entry} {tcsPa gprPa : Word}

/-- When ready, ENCLU commits an entry of the launch at `tcsPa` whose GPR area is at `gprPa`. -/
theorem exec_enclu_commits (h : EntryReady s tcsPa gprPa) :
    ∃ e, e.launch = launchAt s tcsPa ∧ e.gprPa = gprPa ∧ exec .enclu s = .next (commitEntry s e) := by
  obtain ⟨pages, cetPa, -, -, hexec⟩ := exec_enclu_of_ready h
  exact ⟨_, rfl, rfl, hexec⟩

/-- The entry is opt-in exactly when the flag of the TCS says so (42 R215). -/
theorem optIn_iff (hlaunch : e.launch = launchAt s tcsPa) : optIn e = true ↔ EntersOptIn s tcsPa := by
  rw [optIn, hlaunch, launchAt_tcs]
  exact Iff.rfl

theorem optIn_eq_false (hlaunch : e.launch = launchAt s tcsPa) (h : ¬ EntersOptIn s tcsPa) : optIn e = false := by
  rwa [← optIn_iff hlaunch, Bool.not_eq_true] at h

/-! ### Registers and flags -/

/-- In 32-bit mode a register write replaces the low half (10_state R22). -/
theorem writeAtWidth_false (old v : Word) : writeAtWidth false old v = old.extractLsb' 32 32 ++ v.setWidth 32 := rfl

theorem setWidth_32_of_64 (v : Dword) : (v.setWidth 64).setWidth 32 = v :=
  BitVec.setWidth_setWidth_of_le v (by decide) |>.trans (BitVec.setWidth_eq v)

/-- In 64-bit mode the following IP is a sum of 64 bits (30_encoding R94). -/
theorem nextIp_64 (hm : mode64 s = true) : nextIp s = s.rip + BitVec.ofNat 64 s.cfg.encluLen := by
  rw [nextIp, hm, atWidth_true]

/-- In 32-bit mode the low half of the following IP is a sum of 32 bits (30_encoding R94). -/
theorem nextIp_low_32 (hm : mode64 s = false) :
    (nextIp s).setWidth 32 = s.rip.setWidth 32 + BitVec.ofNat 32 s.cfg.encluLen := by
  rw [nextIp, hm, atWidth_false, BitVec.setWidth_setWidth_of_le _ (by decide), BitVec.setWidth_eq,
    BitVec.setWidth_add _ _ (by decide), BitVec.setWidth_ofNat_of_le (by decide)]

/-- Clearing a bit leaves every other bit. -/
theorem getLsbD_clearBit_of_ne (w : Word) {k i : Nat} (h : i ≠ k) : (clearBit w k).getLsbD i = w.getLsbD i := by
  by_cases hi : i < 64
  · have hmask : (bitMask k).getLsbD i = false := by
      have hset := getLsbD_setBit 0 (k := k) hi
      simpa [setBit, h] using hset
    rw [clearBit, BitVec.getLsbD_and, BitVec.getLsbD_not, hmask, decide_eq_true hi, Bool.not_false, Bool.and_true,
      Bool.and_true]
  · rw [BitVec.getLsbD_of_ge _ _ (by omega), BitVec.getLsbD_of_ge _ _ (by omega)]

/-! ### Physical addresses -/

/-- What the SSA loop found for a page that it visits is cached at that index (41 R169; log 33). -/
theorem xsavePage_commit_of_lt {n : Nat} (hn : n < e.xsavePages.length) :
    xsavePage (commitSgx s e) n = e.xsavePages[n] := by
  rw [xsavePage, commitSgx_xsavePages, keyedGetD_putXsavePages]
  simp [hn]

/-- An index past the visited pages keeps what it held (log 33). -/
theorem xsavePage_commit_of_ge {n : Nat} (hn : e.xsavePages.length ≤ n) :
    xsavePage (commitSgx s e) n = xsavePage s.sgx n := by
  rw [xsavePage, commitSgx_xsavePages, keyedGetD_putXsavePages]
  simp [hn, xsavePage]

/-! ### The GPR area -/

/-- Words with the same low half have the same low four bytes. -/
theorem byte_of_low_eq {v w : Word} (h : v.setWidth 32 = w.setWidth 32) {i : Nat} (hi : i < 4) :
    v.extractLsb' (8 * i) 8 = w.extractLsb' (8 * i) 8 := by
  ext j hj
  have hbit := congrArg (fun x : Dword => x.getLsbD (8 * i + j)) h
  simpa [BitVec.getLsbD_setWidth, show 8 * i + j < 32 by omega] using hbit

/-- A register stored at the width of the mode: its eight bytes in 64-bit mode, its low four in 32-bit mode (42 R212;
log 8). -/
theorem writeFreeUpper_byte (m : Bool) (n : Nat) (v : Word) {i : Nat} (hi : i < if m = true then 8 else 4) :
    (writeFreeUpper m n (atWidth m v)).extractLsb' (8 * i) 8 = v.extractLsb' (8 * i) 8 := by
  cases m with
  | true => rfl
  | false => exact byte_of_low_eq (by simp) hi

/-- The slots of `U_RSP` and `U_RBP` lie in one page of the area and do not overlap (42 R212). -/
theorem gprSlots_apart (harea : s.cfg.gprAreaOk = true) (hsize : s.cfg.gprsgxSize ≤ 4096) {i j : Nat} (hi : i < 8)
    (hj : j < 8) :
    gprPa + BitVec.ofNat 64 (s.cfg.gprOffUrsp + i) ≠ gprPa + BitVec.ofNat 64 (s.cfg.gprOffUrbp + j) := by
  simp only [Config.gprAreaOk, Bool.and_eq_true, Bool.or_eq_true, decide_eq_true_eq] at harea
  obtain ⟨⟨hursp, hurbp⟩, hapart⟩ := harea
  exact add_ofNat_ne gprPa (by omega) (by omega) (by omega)

/-- A byte of the `U_RBP` slot, which is stored last. -/
theorem commitMem_urbp {i : Nat} (hi : i < 8) :
    memReadByte (commitMem s e) (e.gprPa + BitVec.ofNat 64 (s.cfg.gprOffUrbp + i)) =
      some ((urbpValue s).extractLsb' (8 * i) 8) := by
  rw [commitMem, urbpAddr, ← add_ofNat_add]
  exact memReadByte_physWrite8 _ _ _ hi

/-- A byte outside the `U_RBP` slot is what the store to `U_RSP` left. -/
theorem commitMem_of_ne_urbp {a : Word}
    (h : ∀ i, i < 8 → a ≠ e.gprPa + BitVec.ofNat 64 (s.cfg.gprOffUrbp + i)) :
    memReadByte (commitMem s e) a = memReadByte (physWrite8 s.mem (urspAddr s e) (urspValue s)) a := by
  refine memReadByte_physWrite8_of_ne _ _ _ fun i hi => ?_
  rw [urbpAddr, add_ofNat_add]
  exact h i hi

/-- A byte of the `U_RSP` slot, in a configuration whose slots lie apart. -/
theorem commitMem_ursp (harea : s.cfg.gprAreaOk = true) (hsize : s.cfg.gprsgxSize ≤ 4096) {i : Nat} (hi : i < 8) :
    memReadByte (commitMem s e) (e.gprPa + BitVec.ofNat 64 (s.cfg.gprOffUrsp + i)) =
      some ((urspValue s).extractLsb' (8 * i) 8) := by
  rw [commitMem_of_ne_urbp fun j hj => gprSlots_apart harea hsize hi hj, urspAddr, ← add_ofNat_add]
  exact memReadByte_physWrite8 _ _ _ hi

/-- A byte outside both slots is unchanged. -/
theorem commitMem_of_ne {a : Word}
    (h : ∀ i, i < 8 → a ≠ e.gprPa + BitVec.ofNat 64 (s.cfg.gprOffUrsp + i) ∧
      a ≠ e.gprPa + BitVec.ofNat 64 (s.cfg.gprOffUrbp + i)) :
    memReadByte (commitMem s e) a = memReadByte s.mem a := by
  rw [commitMem_of_ne_urbp fun i hi => (h i hi).2]
  refine memReadByte_physWrite8_of_ne _ _ _ fun i hi => ?_
  rw [urspAddr, add_ofNat_add]
  exact (h i hi).1

/-! ### Debug and performance monitoring -/

/-- On an opt-out entry every code breakpoint is suppressed, and the data breakpoints that overlap (42 R216). -/
theorem commitBreakpoint_optOut (r : ElRange) (b : Breakpoint) :
    commitBreakpoint r false b = { b with suppressed := b.suppressed ||
      (match b.kind with
        | .code => true
        | .data => overlapsElrange r b) } := by
  cases hkind : b.kind <;> simp [commitBreakpoint, suppresses, hkind]

/-- On an opt-in entry the code breakpoints that do not overlap are suppressed (42 R215). -/
theorem commitBreakpoint_optIn (r : ElRange) (b : Breakpoint) :
    commitBreakpoint r true b = { b with suppressed := b.suppressed ||
      (match b.kind with
        | .code => !(overlapsElrange r b)
        | .data => false) } := by
  cases hkind : b.kind <;> simp [commitBreakpoint, suppresses, hkind]

/-- A sibling without an AnyThread counter is unchanged (42 R221). -/
theorem demoteSibling_of_not_mem (c : Config) {t : Sibling} (h : CountMode.anyThread ∉ t.counters) :
    demoteSibling c t = t := by
  simp [demoteSibling, h]

/-- A sibling with an AnyThread counter: every counter becomes MyThread, and PGS_BIT_A is set (42 R221). -/
theorem demoteSibling_of_mem (c : Config) {t : Sibling} (h : CountMode.anyThread ∈ t.counters) :
    demoteSibling c t =
      { counters := List.replicate t.counters.length .myThread, globalStatus := setBit t.globalStatus c.pgsBitA } := by
  simp [demoteSibling, h, List.map_const']

/-- The status of an opt-out entry: both bits are set if some monitoring was active (42 R222). -/
theorem commitPerf_globalStatus_optOut (hopt : optIn e = false) {i : Nat} (hi : i < 64) :
    (commitPerf s e).globalStatus.getLsbD i = (s.perf.globalStatus.getLsbD i ||
      (s.perf.active && (decide (i = s.cfg.pgsBitA.val) || decide (i = s.cfg.pgsBitB.val)))) := by
  rw [commitPerf_globalStatus, hopt]
  cases s.perf.active with
  | false => simp
  | true => simp only [Bool.not_false, Bool.and_self, if_true, getLsbD_setBit _ hi, Bool.true_and, Bool.or_assoc]

end Sys2Proof.Proofs.Commit

namespace Sys2Proof.Proofs

open Sys2Proof.Machine Sys2Proof.Safety Sys2Proof.Laws Sys2Proof.Proofs.Overview Sys2Proof.Proofs.Invariant
  Sys2Proof.Proofs.Commit

/-- Settles O36: RAX and RCX are written at the width of the mode, which in 32-bit mode keeps their upper halves. -/
theorem entryWritesRaxAndRcx : Obligations.EntryWritesRaxAndRcx := by
  intro s tcsPa gprPa hready
  obtain ⟨e, hlaunch, -, hexec⟩ := exec_enclu_commits hready
  have hrax : (commitEntry s e).gpr.rax = writeAtWidth (mode64 s) s.gpr.rax ((tcsAt s.epc tcsPa).cssa.setWidth 64) := by
    rw [← launchAt_tcs, ← hlaunch]
    exact commitGprs_rax s e
  have hrcx : (commitEntry s e).gpr.rcx = writeAtWidth (mode64 s) s.gpr.rcx (nextIp s) := commitGprs_rcx s e
  refine ⟨_, hexec, fun r hr hr' => commitGprs_other s e hr hr', fun hm => ⟨?_, ?_⟩, fun hm => ⟨?_, ?_⟩⟩
  · rw [hrax, hm, writeAtWidth_true]
  · rw [hrcx, hm, writeAtWidth_true, nextIp_64 hm]
  · rw [hrax, hm, writeAtWidth_false, setWidth_32_of_64]
  · rw [hrcx, hm, writeAtWidth_false, nextIp_low_32 hm]

/-- Settles O37: the commit clears bit 8 of RFLAGS on an opt-out entry only. -/
theorem entryClearsTfOnlyWhenOptOut : Obligations.EntryClearsTfOnlyWhenOptOut := by
  intro s tcsPa gprPa hready
  obtain ⟨e, hlaunch, -, hexec⟩ := exec_enclu_commits hready
  refine ⟨_, hexec, fun hin => ?_, fun hout => ?_⟩
  · rw [commitEntry_rflags, commitRflags, if_pos ((optIn_iff hlaunch).mpr hin)]
  · have hopt := optIn_eq_false hlaunch hout
    refine ⟨rflagsTf_commitRflags hopt, fun i hi => ?_⟩
    rw [commitEntry_rflags, commitRflags, hopt]
    exact getLsbD_clearBit_of_ne _ hi

/-- Settles O39: both segments are built from DS and the TCS; the base is read at the width of the mode, which does not see
the free upper half. -/
theorem entryBuildsFsAndGs : Obligations.EntryBuildsFsAndGs := by
  intro s tcsPa gprPa hready
  obtain ⟨e, hlaunch, -, hexec⟩ := exec_enclu_commits hready
  have hrights (f : SegReg) (hselector : f.selector = 0x000B) (har : f.ar = enclaveRights s.seg.ds) :
      f.selector = 0x000B ∧ f.ar.type = (if s.seg.ds.ar.type.getLsbD 1 then 0b0011#4 else 0b0001#4) ∧
        f.ar.s = true ∧ f.ar.dpl = s.seg.ds.ar.dpl ∧ f.ar.g = true ∧ f.ar.b = true ∧ f.ar.p = true ∧
        f.ar.avl = s.seg.ds.ar.avl ∧ f.ar.l = s.seg.ds.ar.l ∧ f.ar.unusable = false := by
    rw [har]
    exact ⟨hselector, rfl, rfl, rfl, rfl, rfl, rfl, rfl, rfl, rfl⟩
  refine ⟨_, hexec, rfl, rfl, rfl, rfl, fun f hf => ?_, ?_, ?_, ?_, ?_⟩
  · rw [List.mem_cons, List.mem_singleton] at hf
    obtain rfl | rfl := hf
    · exact hrights _ rfl rfl
    · exact hrights _ rfl rfl
  · simp [segBase, tmpFsBase, hlaunch]
  · simp [segBase, tmpGsBase, hlaunch]
  · simp [hlaunch]
  · simp [hlaunch]

/-- Settles O41: the two CET features of the processor gate the two registers; the new values are `TMP_IA32_U_CET` and
`TMP_SSP`. -/
theorem entrySwapsCetState : Obligations.EntrySwapsCetState := by
  intro s tcsPa gprPa hready
  obtain ⟨e, hlaunch, -, hexec⟩ := exec_enclu_commits hready
  have hcet : cpuCet s.cfg = true ↔ s.cfg.cpuCetIbt = true ∨ s.cfg.cpuCetSs = true := by simp [cpuCet]
  refine ⟨_, hexec, fun hany => ?_, fun hnone => ?_, fun hss => ?_, fun hss => ?_⟩
  · rw [commitEntry_sgx, commitEntry_sys, commitSgx_saveUCet, commitSys_uCet, hlaunch, hcet.mpr hany]
    exact ⟨rfl, rfl⟩
  · rw [← hcet, Bool.not_eq_true] at hnone
    rw [commitEntry_sgx, commitEntry_sys, commitSgx_saveUCet, commitSys_uCet, hnone]
    exact ⟨rfl, rfl⟩
  · rw [commitEntry_sgx, commitEntry_sys, commitSgx_saveSsp, commitSys_ssp, hlaunch, hss]
    exact ⟨rfl, rfl⟩
  · rw [commitEntry_sgx, commitEntry_sys, commitSgx_saveSsp, commitSys_ssp, hss]
    exact ⟨rfl, rfl⟩

/-- Settles O43: the addresses are those that the SSA loop and the CET check found by translating. -/
theorem entryCachesPhysicalAddresses : Obligations.EntryCachesPhysicalAddresses := by
  intro s tcsPa gprPa hready
  obtain ⟨pages, cetPa, hpages, hcet, hexec⟩ := exec_enclu_of_ready hready
  obtain ⟨hlen, hall⟩ := ssaPageLoop_ok.mp hpages
  refine ⟨_, hexec, rfl, fun n hn => ?_, fun n hn => ?_, fun hon => ?_, fun hoff => ?_⟩
  · rw [← hlen] at hn
    rw [commitEntry_sgx, xsavePage_commit_of_lt hn]
    simpa using (hall n hn).translates
  · rw [← hlen] at hn
    rw [commitEntry_sgx, xsavePage_commit_of_ge hn]
  · obtain ⟨hoff, -⟩ | ⟨-, pa, hpa, rfl⟩ := cetSaveCheck_ok.mp hcet
    · simp [hon] at hoff
    · exact ⟨pa, hpa.translates, rfl⟩
  · obtain ⟨-, rfl⟩ | ⟨hon, -⟩ := cetSaveCheck_ok.mp hcet
    · rfl
    · simp [hoff] at hon

/-- Settles O44: one record is written, in the page of the TCS. -/
theorem entryMarksTheTcs : Obligations.EntryMarksTheTcs := by
  intro s tcsPa gprPa hready
  obtain ⟨e, hlaunch, -, hexec⟩ := exec_enclu_commits hready
  refine ⟨_, hexec, ⟨(commitTcs s e).aep, ?_, ?_⟩, fun pa hpa => ?_⟩
  · rw [commitEntry_epc, hlaunch, launchAt_tcsPa, tcsAt_putTcs_self, commitTcs, hlaunch, launchAt_tcs]
  · rw [commitTcs_aep, atWidth_writeFreeUpper, reg, atWidth_atWidth]
  · rw [commitEntry_epc, hlaunch, launchAt_tcsPa, tcsAt_putTcs, if_neg hpa]

/-- Settles O45: two eight-byte stores to slots that lie apart, of values that agree with RSP and RBP at the width of the
mode. -/
theorem entryStoresRspAndRbp : Obligations.EntryStoresRspAndRbp := by
  intro s tcsPa gprPa hready harea
  obtain ⟨e, -, rfl, hexec⟩ := exec_enclu_commits hready
  have hsize : s.cfg.gprsgxSize ≤ 4096 := Nat.le_of_add_left_le hready.gpr_one_page
  refine ⟨_, hexec, fun i hi => ?_, fun a ha => ?_⟩
  · have hi8 : i < 8 := by split at hi <;> omega
    rw [commitEntry_mem, commitMem_ursp harea hsize hi8, commitMem_urbp hi8]
    exact ⟨congrArg some (writeFreeUpper_byte _ _ _ hi), congrArg some (writeFreeUpper_byte _ _ _ hi)⟩
  · rw [commitEntry_mem, commitMem_of_ne ha]

/-- Settles O46: two ranges of naturals meet exactly when neither is empty and each starts before the other ends; the
larger of the two starts is then in both. -/
theorem overlapMeansAByteInBoth : Obligations.OverlapMeansAByteInBoth := by
  intro r b
  simp only [overlapsElrange, Bool.and_eq_true, decide_eq_true_eq]
  constructor
  · rintro ⟨⟨⟨hbelow, habove⟩, hlength⟩, hsize⟩
    exact ⟨max b.addr.toNat r.base.toNat, by omega, by omega⟩
  · rintro ⟨x, hwatched, hrange⟩
    omega

/-- Settles O47: the fields of an opt-out commit. -/
theorem optOutEntryHidesFromDebug : Obligations.OptOutEntryHidesFromDebug := by
  intro s tcsPa gprPa hready hout
  obtain ⟨e, hlaunch, -, hexec⟩ := exec_enclu_commits hready
  have hopt := optIn_eq_false hlaunch hout
  refine ⟨_, hexec, by simp [hopt], by simp [hopt], by simp [hopt], by simp [hopt], by simp [hopt], ?_⟩
  rw [commitEntry_dbg, commitDbg_breakpoints, hopt]
  exact List.map_congr_left fun b _ => commitBreakpoint_optOut _ b

/-- Settles O48: the fields of an opt-in commit. -/
theorem optInEntryStaysOpenToDebug : Obligations.OptInEntryStaysOpenToDebug := by
  intro s tcsPa gprPa hready hin
  obtain ⟨e, hlaunch, -, hexec⟩ := exec_enclu_commits hready
  have hopt := (optIn_iff hlaunch).mpr hin
  refine ⟨_, hexec, by simp [hopt], by simp [hopt], by simp [hopt], by simp [hopt], by simp [hopt], ?_⟩
  rw [commitEntry_dbg, commitDbg_breakpoints, hopt]
  exact List.map_congr_left fun b _ => commitBreakpoint_optIn _ b

/-- Settles O49: an opt-in commit keeps the whole of performance monitoring; an opt-out commit suppresses it and demotes
each sibling. -/
theorem entrySuppressesPerformanceMonitoring : Obligations.EntrySuppressesPerformanceMonitoring := by
  intro s tcsPa gprPa hready
  obtain ⟨e, hlaunch, -, hexec⟩ := exec_enclu_commits hready
  refine ⟨_, hexec, fun hin => commitPerf_optIn ((optIn_iff hlaunch).mpr hin), fun hout => ?_⟩
  have hopt := optIn_eq_false hlaunch hout
  have hsiblings : (commitEntry s e).perf.siblings = s.perf.siblings.map (demoteSibling s.cfg) := by simp [hopt]
  refine ⟨by simp [hopt], by simp [hopt], fun i hi => commitPerf_globalStatus_optOut hopt hi,
    by rw [hsiblings, List.length_map], fun k u v hu hv => ?_⟩
  rw [hsiblings, List.getElem?_map, hu, Option.map_some] at hv
  cases hv
  refine ⟨demoteSibling_of_not_mem s.cfg, fun hany => ?_⟩
  rw [demoteSibling_of_mem s.cfg hany]
  exact ⟨rfl, fun i hi => getLsbD_setBit _ hi⟩

/-- Settles O50: the commit does not write these fields, and it writes no breakpoint's programming. -/
theorem entryLeavesTheRestUnchanged : Obligations.EntryLeavesTheRestUnchanged := by
  intro s tcsPa gprPa hready
  obtain ⟨e, -, -, hexec⟩ := exec_enclu_commits hready
  refine ⟨_, hexec, commitEntry_cfg s e, ?_, commitEntry_paging s e, ?_, ?_, ?_, ?_, ?_, commitEntry_linearContext s e⟩
  · rw [commitEntry_sys]
    rfl
  · rw [commitEntry_epc, putTcs_epcm]
  · rw [commitEntry_epc, putTcs_secs]
  · rw [commitEntry_virt, commitVirt_mtfControl]
  · rw [commitEntry_perf, commitPerf_active]
  · rw [commitEntry_dbg, commitDbg_breakpoints, List.map_map]
    exact List.map_congr_left fun b _ => by simp

end Sys2Proof.Proofs

/-! PROOFS. The statements about the whole machine: what ENCLU does not read of the general registers (30_encoding R92,
10_state R22), that a TCS is entered once (20_memory R77), and that no step leaves enclave mode (60_exceptions R270). -/

namespace Sys2Proof.Proofs.Noninterference

open Sys2Proof.Machine Sys2Proof.Safety Sys2Proof.Laws

variable {s : State} {g : Gprs}

/-- A register file that ENCLU reads as it reads the one of `s`: the same leaf, and every register but RAX the same at the
width of the mode (30_encoding R92, 10_state R22). -/
structure ReadsAlike (s : State) (g : Gprs) : Prop where
  leaf : g.rax.setWidth 32 = leafNumber s
  others : ∀ r, r ≠ .rax → atWidth (mode64 s) (gprGet g r) = reg s r

/-- Registers are read at the width of the mode, which no general register decides. -/
theorem ReadsAlike.reg_eq (h : ReadsAlike s g) {r : Gpr} (hr : r ≠ .rax) : reg { s with gpr := g } r = reg s r :=
  h.others r hr

theorem ReadsAlike.tcsLa_eq (h : ReadsAlike s g) : tcsLa { s with gpr := g } = tcsLa s := by
  rw [tcsLa, h.reg_eq (by decide)]
  rfl

/-! ### The checks -/

/-- The caller's checks read RBX and RCX, at the width of the mode (41 R145 to R149). -/
theorem callerChecks_alike (h : ReadsAlike s g) : callerChecks { s with gpr := g } = callerChecks s := by
  have haligned : checkTcsAligned { s with gpr := g } = checkTcsAligned s := by
    rw [checkTcsAligned, h.tcsLa_eq, checkTcsAligned]
  have hlimit : checkTcsInDs { s with gpr := g } = checkTcsInDs s := by
    rw [checkTcsInDs, h.reg_eq (by decide)]
    rfl
  have hcanonical : checkTcsCanonical { s with gpr := g } = checkTcsCanonical s := by
    rw [checkTcsCanonical, h.reg_eq (by decide)]
    rfl
  have haep : checkAepCanonical { s with gpr := g } = checkAepCanonical s := by
    rw [checkAepCanonical, h.reg_eq (by decide)]
    rfl
  rw [callerChecks, haligned, hlimit, hcanonical, haep, h.tcsLa_eq]
  rfl

/-- The checks on the TCS, the SECS and the control registers read no general register but through the TCS address
(41 R153 to R166). -/
theorem controlChecks_alike (h : ReadsAlike s g) (L : Launch) :
    controlChecks { s with gpr := g } L = controlChecks s L := by
  have hpage : checkTcsPage { s with gpr := g } L.tcsPa = checkTcsPage s L.tcsPa := by
    rw [checkTcsPage, h.tcsLa_eq]
    rfl
  rw [controlChecks, hpage]
  rfl

/-- The SSA loop reads no general register (41 R169). -/
theorem ssaPageLoop_gpr (s : State) (g : Gprs) (L : Launch) (n k : Nat) :
    ssaPageLoop { s with gpr := g } L n k = ssaPageLoop s L n k := by
  induction k generalizing n with
  | zero => rfl
  | succ k ih =>
    rw [ssaPageLoop, ih, ssaPageLoop]
    rfl

/-- Register files that are read alike pass the same checks, or fail the same one (40 R131). -/
theorem eenterChecks_alike (h : ReadsAlike s g) : eenterChecks { s with gpr := g } = eenterChecks s := by
  simp only [eenterChecks, callerChecks_alike h, controlChecks_alike h, ssaPageLoop_gpr]
  rfl

/-! ### The commit -/

/-- Entries of register files that are read alike differ in the general registers alone (42 R200). -/
theorem commitEntry_alike (h : ReadsAlike s g) (e : Entry) :
    commitEntry { s with gpr := g } e = { commitEntry s e with gpr := commitGprs { s with gpr := g } e } := by
  have hsgx : commitSgx { s with gpr := g } e = commitSgx s e := by
    rw [commitSgx, h.reg_eq (by decide)]
    rfl
  have hmem : commitMem { s with gpr := g } e = commitMem s e := by
    rw [commitMem, urspValue, urbpValue, h.reg_eq (by decide), h.reg_eq (by decide)]
    rfl
  have htcs : commitTcs { s with gpr := g } e = commitTcs s e := by
    rw [commitTcs, h.reg_eq (by decide)]
    rfl
  rw [commitEntry, hsgx, hmem, htcs]
  rfl

/-- Register files that are read alike stop ENCLU alike, or both enter, to states that differ in the general registers
alone. -/
theorem exec_enclu_alike (h : ReadsAlike s g) :
    (∃ e, exec .enclu s = .next (commitEntry s e) ∧
      exec .enclu { s with gpr := g } =
        .next { commitEntry s e with gpr := commitGprs { s with gpr := g } e }) ∨
    (∃ st, exec .enclu s = raiseStop st ∧ exec .enclu { s with gpr := g } = raiseStop st) := by
  have havailable : encluAvailable { s with gpr := g } = encluAvailable s := rfl
  have hleaf : leafNumber { s with gpr := g } = leafNumber s := h.leaf
  cases ha : encluAvailable s with
  | false =>
    exact .inr ⟨.fault .ud, Inversion.exec_enclu_ud_of_unavailable ha,
      Inversion.exec_enclu_ud_of_unavailable (havailable.trans ha)⟩
  | true =>
    by_cases hl : leafNumber s = eenterLeaf
    · cases hchecks : eenterChecks s with
      | ok e =>
        refine .inl ⟨e, exec_enclu_next.mpr ⟨ha, hl, e, hchecks, rfl⟩, exec_enclu_next.mpr
          ⟨havailable.trans ha, hleaf.trans hl, e, (eenterChecks_alike h).trans hchecks, ?_⟩⟩
        exact (commitEntry_alike h e).symm
      | error st =>
        exact .inr ⟨st, exec_enclu_stop ha hl hchecks,
          exec_enclu_stop (havailable.trans ha) (hleaf.trans hl) ((eenterChecks_alike h).trans hchecks)⟩
    · exact .inr ⟨.refuse .otherLeaf, Inversion.exec_enclu_of_otherLeaf ha hl,
        Inversion.exec_enclu_of_otherLeaf (havailable.trans ha) (hleaf ▸ hl)⟩

/-! ### The register file after an entry -/

/-- In 64-bit mode an entry replaces RAX, whatever it held (42 R209). -/
theorem commitGprs_rax_64 (e : Entry) (a : Word) (hm : mode64 s = true) :
    commitGprs { s with gpr := { s.gpr with rax := a } } e = commitGprs s e := by
  have hm' : mode64 { s with gpr := { s.gpr with rax := a } } = true := hm
  rw [commitGprs, commitGprs, hm, hm', gprWrite_64, gprWrite_64, gprWrite_64, gprWrite_64]
  rfl

/-- A register write sets a low half that the register's old value does not decide (10_state R22). -/
theorem gprGet_gprWrite_low (m : Bool) (f : Gprs) (r q : Gpr) (v : Word) :
    (gprGet (gprWrite m f r v) q).setWidth 32 = if q = r then v.setWidth 32 else (gprGet f q).setWidth 32 := by
  by_cases hq : q = r
  · subst hq
    rw [gprWrite, gprGet_gprSet_self, writeAtWidth_low, if_pos rfl]
  · rw [gprWrite, gprGet_gprSet_ne _ _ hq, if_neg hq]

/-- Register files with the same low halves have the same low halves after an entry (10_state R22). -/
theorem commitGprs_low (e : Entry) (h : ∀ r, (gprGet g r).setWidth 32 = (gprGet s.gpr r).setWidth 32) (r : Gpr) :
    (gprGet (commitGprs { s with gpr := g } e) r).setWidth 32 = (gprGet (commitGprs s e) r).setWidth 32 := by
  have hip : nextIp { s with gpr := g } = nextIp s := rfl
  rw [commitGprs, commitGprs, gprGet_gprWrite_low, gprGet_gprWrite_low, gprGet_gprWrite_low, gprGet_gprWrite_low, h r, hip]

/-- In 32-bit mode, register files with the same low halves are read alike (10_state R22). -/
theorem readsAlike_of_low (hm : mode64 s = false)
    (h : ∀ r, (gprGet g r).setWidth 32 = (gprGet s.gpr r).setWidth 32) : ReadsAlike s g where
  leaf := h .rax
  others := fun r _ => by rw [reg, hm, atWidth_false, atWidth_false, h r]

end Sys2Proof.Proofs.Noninterference

namespace Sys2Proof.Proofs

open Sys2Proof.Machine Sys2Proof.Safety Sys2Proof.Laws Sys2Proof.Proofs.Inversion Sys2Proof.Proofs.Invariant
  Sys2Proof.Proofs.Noninterference

/-- Settles O9: EAX is the leaf, no other register is touched, and in 64-bit mode an entry overwrites the whole of RAX. -/
theorem upperRaxIsIgnored : Obligations.UpperRaxIsIgnored := by
  intro s a b hm hlow
  have halike : ReadsAlike { s with gpr := { s.gpr with rax := a } } { s.gpr with rax := b } :=
    { leaf := hlow.symm
      others := fun r hr => by
        cases r with
        | rax => exact absurd rfl hr
        | _ => rfl }
  obtain ⟨e, ha, hb⟩ | ⟨st, ha, hb⟩ := exec_enclu_alike halike
  · rw [ha, hb]
    have hgprs : commitGprs { s with gpr := { s.gpr with rax := b } } e =
        commitGprs { s with gpr := { s.gpr with rax := a } } e := by
      rw [commitGprs_rax_64 e b hm, commitGprs_rax_64 e a hm]
    rw [hgprs]
    rfl
  · exact ha.trans hb.symm

/-- Settles O51: the first entry marks the TCS of that page active, and an entry needs one that is not. -/
theorem atMostOneEntryPerTcs : Obligations.AtMostOneEntryPerTcs := by
  intro s t u pa hfirst hepc htranslate hpage v hsecond
  obtain ⟨e, tcsPa, hlaunch, -, rfl⟩ := exec_enclu_next_ready hfirst
  obtain ⟨e', pa', -, hready, -⟩ := exec_enclu_next_ready hsecond
  obtain rfl : pa' = pa := by simpa [htranslate] using hready.caller.resolves.translates.symm
  have hinactive : (tcsAt u.epc pa').state = .inactive := hready.entry_point.inactive
  have hactive : (tcsAt u.epc pa').state = .active := by
    rw [commitEntry_sgx, commitSgx_tcsPa] at hpage
    rw [hepc, commitEntry_epc, tcsAt_putTcs, if_pos hpage, commitTcs_state]
  simp [hactive] at hinactive

/-- Settles O52: a step that goes on is an entry, which is refused in enclave mode and sets it. -/
theorem stepsOnlyEnterEnclaveMode : Obligations.StepsOnlyEnterEnclaveMode := by
  intro s t hstep
  obtain ⟨e, tcsPa, -, hready, rfl⟩ := step_next_ready hstep
  exact ⟨hready.caller.callable.outside, by simp, Overview.mode64_commitEntry s e⟩

/-- Settles O53: in 32-bit mode the two register files are read alike, and an entry writes the same low halves to both. -/
theorem upperHalvesAreInvisibleIn32BitMode : Obligations.UpperHalvesAreInvisibleIn32BitMode := by
  intro s g hm hlow
  obtain ⟨e, hs, hg⟩ | ⟨st, hs, hg⟩ := exec_enclu_alike (readsAlike_of_low hm hlow)
  · rw [hs, hg]
    exact ⟨rfl, fun r => commitGprs_low e hlow r⟩
  · rw [hs, hg]
    cases st with
    | fault f => exact rfl
    | refuse r => exact rfl

end Sys2Proof.Proofs
